-- ==== Sys2Proof/Word.lean ====
section
/-!
DEFINITION. The data types of the engine (00_scope.md rules R10, R11, R17): the byte, the 32-bit element and lane, the 64-bit
register, and the vector of four lanes. Arithmetic on data is that of `BitVec 32`, which wraps modulo 2^32 (R11).
-/

namespace Sys2Proof

/-- The unit of addressing: the 8-bit byte (10_state.md R31). -/
abbrev Byte := BitVec 8

/-- `u32`: an element of an integer buffer, a lane, a command word (00_scope.md R10, R17). -/
abbrev Word := BitVec 32

/-- `u64`: a register slot on the interface, an address (10_state.md R22, R31). -/
abbrev DWord := BitVec 64

/-- A vector of `VW = 128` bits as its four lanes; lane 0 is the first element in buffer order (00_scope.md R17). -/
structure Vec where
  l0 : Word
  l1 : Word
  l2 : Word
  l3 : Word
  deriving DecidableEq, Repr

end Sys2Proof
end

