-- ==== Sys2Proof/Config.lean ====
section
/-!
DEFINITION. The fixed parameters of the engine (00_scope.md R9), and the opaque constants for what the spec leaves open: the free
values of unspecified bytes, and the platform's `CSR_BASE`. `Accessible`, the third open parameter, is plain data in State (`holes`).
-/

namespace Sys2Proof.Config

/-- `2^AW` with `AW = 64`: the number of byte addresses (00_scope.md R9). -/
abbrev addressSpace : Nat := 2 ^ 64

/-- `MB`: integers in a miniblock (00_scope.md R9). -/
abbrev miniblock : Nat := 128

/-- `SB`: miniblocks in a superblock (00_scope.md R9). -/
abbrev superblock : Nat := 16

/-- `GROUP`: values in one group of the vectorised `SVB` decoder (00_scope.md R9). -/
abbrev group : Nat := 32

/-- The free value of the `i`-th unspecified byte drawn in a run (20_memory.md R69, 70_reset_and_hazards.md R300): it has no
body, so nothing can be proved of it. Assumption log 4. -/
opaque freeByte : Nat → Byte

/-- `CSR_BASE`: the bus address of register slot 0 where a platform maps the register space into a bus address space; no rule
depends on its value (00_scope.md R9, 10_state.md R22). Assumption log 14. -/
opaque csrBase : DWord

/-- The bus address of register slot `r` on such a platform (10_state.md R22, 30_encoding.md R90). -/
def slotAddress (r : Fin 32) : DWord := csrBase + BitVec.ofNat 64 (8 * r.val)

end Sys2Proof.Config
end

