-- ==== Sys2Proof/Machine/State.lean ====
section
/-!
DEFINITION. The state of the machine as plain data: every register of 10_state.md R23, memory (R31), and the model's own fields for
what the spec makes a parameter of the step relation (R35: the host's transactions, `Accessible`) or leaves unspecified (R69). The
reset state (R36, R300), and the reasons a step can stop.
-/

namespace Sys2Proof.Machine

/-- Memory as (address, byte) pairs (10_state.md R31); `Memory.wf` in Ops.lean is its one canonical form. -/
abbrev Memory := List Host.Cell

/-- A range of addresses `lo ≤ a < hi` that do not exist on the platform: `Accessible a` is false there (00_scope.md R9). -/
structure Hole where
  lo : Nat
  hi : Nat
  deriving DecidableEq, Repr

/-- What reaches the engine from outside: the host's two transactions (30_encoding.md R90), the host's own stores to memory
(10_state.md R31, 20_memory.md R73), and the platform's reset (70_reset_and_hazards.md R300). Assumption logs 1, 5, 6. -/
inductive Event where
  /-- `WR slot, value`. -/
  | wr (slot : Fin 32) (value : DWord)
  /-- `RD slot`. -/
  | rd (slot : Fin 32)
  /-- The host's own store of one byte, by means outside the spec, become visible to the engine. -/
  | store (address : DWord) (value : Byte)
  /-- Reset while the engine is idle. -/
  | reset
  /-- Reset while the command started by `WR CMD, value` is running: that command is abandoned. -/
  | resetDuring (value : DWord)
  deriving DecidableEq, Repr

/-- The state of the machine. -/
structure State where
  /-- `CMD`, slot 0: the last command word written (R24). -/
  cmd : Word
  /-- `STATUS`, slot 1 (R25). -/
  status : Word
  /-- `RESULT`, slot 2 (R26). -/
  result : DWord
  /-- `CONSUMED`, slot 3 (R27). -/
  consumed : DWord
  /-- `STICKY`, slot 4 (R28). -/
  sticky : Word
  /-- `SRC`, slot 5 (R29). -/
  src : DWord
  /-- `SRC_LEN`, slot 6 (R29). -/
  srcLen : DWord
  /-- `DST`, slot 7 (R29). -/
  dst : DWord
  /-- `DST_CAP`, slot 8 (R29). -/
  dstCap : DWord
  /-- `VA`, slots 16 to 19 (R30). -/
  va : Vec
  /-- `VB`, slots 20 to 23 (R30). -/
  vb : Vec
  /-- `VR`, slots 24 to 27 (R30). -/
  vr : Vec
  /-- Memory (R31). -/
  mem : Memory
  /-- The model's own: the addresses for which the platform's `Accessible` is false (R9, R35). No step changes it. Log 3. -/
  holes : List Hole
  /-- The model's own: what the host and the platform still send, in order (R21, R35, R91). Log 1. -/
  pending : List Event
  /-- The model's own: the values `RD` transactions have returned to the host, newest first (R90). Log 7. -/
  returned : List DWord
  /-- The model's own: how many unspecified bytes have been drawn, the argument of `Config.freeByte` (R69, R300). Log 4. -/
  draws : Nat
  deriving DecidableEq, Repr

/-- No step stops with a fault. Every command ends by success or by a cause in `STATUS`, both of them next states (30_encoding.md
R95, 60_exceptions.md R280, R292), no register access raises anything (10_state.md R22), an address that does not exist is the cause
`AccessFault` (60_exceptions.md R279), and the next transaction is always accepted (R282). So the type has no constructor, which is
safe: there is nothing that it could hide. Assumption log 11. -/
inductive Fault where
  deriving DecidableEq, Repr

/-- Why a step has no meaning. -/
inductive Refusal where
  /-- Raised by an arm of `exec` whose instruction has no meaning yet; no arm does, every row of the command map has one. Safe. -/
  | notModelled (mnemonic : String)
  deriving DecidableEq, Repr

/-- The machine right after reset: every register 0 (10_state.md R36, 70_reset_and_hazards.md R300), nothing listed in memory, the
default platform (`Accessible` everywhere, 00_scope.md R9), no transaction sent or answered yet, no byte drawn. -/
def State.reset : State where
  cmd := 0
  status := 0
  result := 0
  consumed := 0
  sticky := 0
  src := 0
  srcLen := 0
  dst := 0
  dstCap := 0
  va := ⟨0, 0, 0, 0⟩
  vb := ⟨0, 0, 0, 0⟩
  vr := ⟨0, 0, 0, 0⟩
  mem := []
  holes := []
  pending := []
  returned := []
  draws := 0

end Sys2Proof.Machine
end

