-- ==== Sys2Proof/Machine/Bits.lean ====
section
/-!
DEFINITION. The pure helpers of the notation (00_scope.md R11 to R14): bit width, little-endian bytes, words in a byte sequence,
groups of a sequence.
-/

namespace Sys2Proof.Machine

/-- `ceil(a/b)` on naturals (00_scope.md R11). -/
def ceilDiv (a b : Nat) : Nat := (a + b - 1) / b

/-- The number of zero bits among bits `i-1 .. 0` of `v` above the highest set one. -/
def clzBelow (v : Word) : Nat → Nat
  | 0 => 0
  | i + 1 => if v.getLsbD i then 0 else 1 + clzBelow v i

/-- `clz32` (00_scope.md R12). -/
def clz32 (v : Word) : Nat := clzBelow v 32

/-- `bits32 = 32 - clz32` (00_scope.md R12). -/
def bits32 (v : Word) : Nat := 32 - clz32 v

/-- `le32`: the four bytes of a value, least significant first (00_scope.md R14). -/
def le32 (v : Word) : List Byte :=
  [v.extractLsb' 0 8, v.extractLsb' 8 8, v.extractLsb' 16 8, v.extractLsb' 24 8]

/-- `leN(v, k)`: the first `k` bytes of `le32 v` (00_scope.md R14). -/
def leN (v : Word) (k : Nat) : List Byte := (le32 v).take k

/-- The number whose little-endian bytes these are (20_memory.md R60). -/
def leNat : List Byte → Nat
  | [] => 0
  | b :: bs => b.toNat + 256 * leNat bs

/-- `uat(s, p, k)` (00_scope.md R14): zero-extended, as a natural. -/
def uat (s : List Byte) (p k : Nat) : Nat := leNat ((s.drop p).take k)

/-- `u32at(s, p)` (00_scope.md R14). -/
def u32at (s : List Byte) (p : Nat) : Word := BitVec.ofNat 32 (uat s p 4)

/-- The first `count` 32-bit words of a byte sequence (20_memory.md R62, 43_block_codec.md R198). -/
def wordsOf : Nat → List Byte → List Word
  | 0, _ => []
  | count + 1, s => u32at s 0 :: wordsOf count (s.drop 4)

/-- The bytes of a sequence of words, each little-endian, in order (20_memory.md R60, R62). -/
def bytesOf (xs : List Word) : List Byte := xs.flatMap le32

/-- The first `count` groups of `size` elements; the last is shorter where the sequence ends in it (00_scope.md R13). -/
def chunk {α : Type} (size : Nat) : Nat → List α → List (List α)
  | 0, _ => []
  | count + 1, xs => xs.take size :: chunk size count (xs.drop size)

/-- The bitwise OR of a sequence of words (43_block_codec.md R194). -/
def orAll : List Word → Word
  | [] => 0
  | x :: xs => x ||| orAll xs

/-- The low 32 bits of what is written to a 32-bit register (10_state.md R22). -/
def low32 (v : DWord) : Word := v.setWidth 32

/-- What a 32-bit register reads as on the 64-bit interface: zero-extended (10_state.md R22). -/
def zext64 (w : Word) : DWord := w.setWidth 64

end Sys2Proof.Machine
end

