-- ==== Sys2Proof/Machine/Flags.lean ====
section
/-!
DEFINITION. The causes and the two flag registers: the numbers of 60_exceptions.md R270, the words written to `STATUS` (10_state.md
R25), and the setting, clearing and reading of `STICKY` (R28).
-/

namespace Sys2Proof.Machine

/-- The causes of 60_exceptions.md R270. `negativeValue` is reserved: no command raises it (R272). -/
inductive Cause where
  | inputLength
  | negativeValue
  | truncated
  | illegalCommand
  | operandRange
  | outputCapacity
  | aliasing
  | accessFault
  deriving DecidableEq, Repr

/-- The cause numbers (60_exceptions.md R270). -/
def Cause.number : Cause → Nat
  | .inputLength => 1
  | .negativeValue => 2
  | .truncated => 3
  | .illegalCommand => 4
  | .operandRange => 5
  | .outputCapacity => 6
  | .aliasing => 7
  | .accessFault => 8

/-- `STATUS` after a successful command (10_state.md R25, 30_encoding.md R96). -/
def statusSuccess : Word := 0x00000001

/-- `STATUS` after a command that raised cause `c` (10_state.md R25, 60_exceptions.md R280). -/
def statusFault (c : Cause) : Word := BitVec.ofNat 32 (0x00000003 + 256 * c.number)

/-- The bits of `STATUS` that do not always read 0: `CAUSE`, `ERR`, `DONE` (10_state.md R25). -/
def statusMask : Word := 0x0000FF03

/-- `STATUS.DONE` (10_state.md R25). -/
def statusDone (w : Word) : Bool := w.getLsbD 0

/-- `STATUS.ERR` (10_state.md R25). -/
def statusErr (w : Word) : Bool := w.getLsbD 1

/-- `STATUS.CAUSE` (10_state.md R25). -/
def statusCause (w : Word) : Nat := (w.extractLsb' 8 8).toNat

/-- The bits of `STICKY` that do not always read 0: bits 1 to 8 (10_state.md R28). -/
def stickyMask : Word := 0x000001FE

/-- `STICKY` after cause `c` was raised (10_state.md R28, 60_exceptions.md R280). -/
def stickySet (sticky : Word) (c : Cause) : Word := sticky ||| ((1 : Word) <<< c.number)

/-- `STICKY` after `WR STICKY, v`: each of bits 1 to 8 that is 1 in `v` is cleared (10_state.md R28). -/
def stickyClear (sticky v : Word) : Word := sticky &&& ~~~(v &&& stickyMask)

end Sys2Proof.Machine
end

