-- ==== Sys2Proof/Machine/Ops.lean ====
section
/-!
DEFINITION. The named operations over memory and registers: reading and writing bytes, words and whole buffers; the end of a
command, by success (30_encoding.md R96) or by a cause (60_exceptions.md R280); unspecified bytes (20_memory.md R69); reset
(70_reset_and_hazards.md R300).

Taking an exception is `raise`. There is no return from one: nothing is saved, so nothing is restored (60_exceptions.md R282).
-/

namespace Sys2Proof.Machine

/-- What an address that no entry lists reads as: 0. Initial memory contents are unspecified (10_state.md R36).
DESIGN CHOICE, unsafe: assumption log 2. -/
def Memory.blank : Byte := 0

/-- The byte at an address (10_state.md R31). -/
def Memory.read : Memory → Nat → Byte
  | [], _ => Memory.blank
  | (k, b) :: m, a => if k = a then b else Memory.read m a

/-- Entries for the bytes at `a, a+1, …`, none for a byte that an unlisted address reads as anyway. -/
def Memory.cells : Nat → List Byte → Memory
  | _, [] => []
  | a, b :: bs => if b = Memory.blank then Memory.cells (a + 1) bs else (a, b) :: Memory.cells (a + 1) bs

/-- `MemWrite(a, n, bs)`, `n` the length of `bs` (00_scope.md R15): the entries of `[a, a + n)` are replaced. -/
def Memory.writeBytes (m : Memory) (a : Nat) (bs : List Byte) : Memory :=
  m.filter (fun c => c.1 < a) ++ Memory.cells a bs ++ m.filter (fun c => a + bs.length ≤ c.1)

/-- `MemRead(a, n)` (00_scope.md R15). -/
def Memory.readBytes (m : Memory) (a : Nat) : Nat → List Byte
  | 0 => []
  | n + 1 => m.read a :: Memory.readBytes m (a + 1) n

/-- `MemReadU32(a)`: four byte reads (00_scope.md R15, 20_memory.md R64). -/
def Memory.readU32 (m : Memory) (a : Nat) : Word := u32at (m.readBytes a 4) 0

/-- An integer buffer of `n` elements at byte address `a`: element `i` at `a + 4i` (20_memory.md R62). -/
def Memory.readWords (m : Memory) (a : Nat) : Nat → List Word
  | 0 => []
  | n + 1 => m.readU32 a :: Memory.readWords m (a + 4) n

/-- Stores an integer buffer at byte address `a` (20_memory.md R62). -/
def Memory.writeWords (m : Memory) (a : Nat) (xs : List Word) : Memory := m.writeBytes a (bytesOf xs)

/-- The canonical form: addresses strictly rising, and no entry that reads as an unlisted address does. Assumption log 2. -/
abbrev Memory.wf (m : Memory) : Prop :=
  m.Pairwise (fun c d => c.1 < d.1) ∧ ∀ c ∈ m, c.2 ≠ Memory.blank

/-- Every entry is at a `u64` address (10_state.md R31). -/
abbrev Memory.inSpace (m : Memory) : Prop := ∀ c ∈ m, c.1 < Config.addressSpace

/-- A range of memory `[base, base + size)` that a command declares, in unbounded naturals (20_memory.md R66). -/
structure Window where
  base : Nat
  size : Nat
  deriving DecidableEq, Repr

/-- Whether a byte address lies in the window. -/
def Window.covers (w : Window) (a : Nat) : Bool := w.base ≤ a && a < w.base + w.size

/-- The part of a window below the top of the address space. -/
def Window.clip (w : Window) : Window := ⟨w.base, min w.size (Config.addressSpace - w.base)⟩

/-- The command completes (30_encoding.md R96): `RESULT`, `CONSUMED`, and `STATUS = 1`; `STICKY` is unchanged. -/
def State.succeed (result consumed : Nat) (s : State) : State :=
  { s with result := BitVec.ofNat 64 result, consumed := BitVec.ofNat 64 consumed, status := statusSuccess }

/-- `raise c`, fault entry (60_exceptions.md R280): nothing else changes, and control goes nowhere. -/
def State.raise (c : Cause) (s : State) : State :=
  { s with result := 0, consumed := 0, status := statusFault c, sticky := stickySet s.sticky c }

/-- Stores a byte sequence at a byte address (20_memory.md R71). -/
def State.storeBytes (a : Nat) (bs : List Byte) (s : State) : State := { s with mem := s.mem.writeBytes a bs }

/-- Stores an integer buffer at a byte address (20_memory.md R62, R71). -/
def State.storeWords (a : Nat) (xs : List Word) (s : State) : State := { s with mem := s.mem.writeWords a xs }

/-- Draws `start, start + 1, …`: `n` unspecified bytes, each chosen independently of the others (20_memory.md R69). -/
def freeBytes (start : Nat) : Nat → List Byte
  | 0 => []
  | n + 1 => Config.freeByte start :: freeBytes (start + 1) n

/-- Every byte of the window becomes unspecified (20_memory.md R69): a fresh free value for each. Assumption log 4. -/
def State.scribble (w : Window) (s : State) : State :=
  { s with mem := s.mem.writeBytes w.base (freeBytes s.draws w.size), draws := s.draws + w.size }

/-- Reset puts every register to 0 and does not touch memory (70_reset_and_hazards.md R300). The platform, the host's transactions
and what they returned are not engine state (10_state.md R21, R35) and stay. -/
def State.clearRegisters (s : State) : State :=
  { s with
    cmd := 0, status := 0, result := 0, consumed := 0, sticky := 0, src := 0, srcLen := 0, dst := 0, dstCap := 0
    va := ⟨0, 0, 0, 0⟩, vb := ⟨0, 0, 0, 0⟩, vr := ⟨0, 0, 0, 0⟩ }

end Sys2Proof.Machine
end

