-- ==== Sys2Proof/Syntax.lean ====
section
/-!
DEFINITION. The command set `SIC-CORE v1`: one constructor for each of the 27 rows of the command map (30_encoding.md R94), and the
name each has in the assembler notation (R99). The only immediate is `K` (R93); all other operands are implicit registers.
-/

namespace Sys2Proof

/-- A command (30_encoding.md R94). `k` is the byte count of a lane shift, 0 to 15 (R93; checked by `Instr.wellFormed`). -/
inductive Instr where
  | lshl (k : Nat)
  | lshr (k : Nat)
  | vdelta1
  | vpsum1
  | vdelta4
  | vundelta4
  | vmaxbits
  | delta1
  | undelta1
  | delta4
  | undelta4
  | prefixsum
  | bpBlocksize
  | bpMaxlen
  | bpDeclen
  | bpEnc
  | bpDec
  | svbBlocksize
  | svbMaxlen
  | svbDeclen
  | svbEnc
  | svbDec
  | compBlocksize
  | compMaxlen
  | compDeclen
  | compEnc
  | compDec
  deriving DecidableEq, Repr

/-- A command in the assembler notation (30_encoding.md R99). -/
def Instr.text : Instr → String
  | .lshl k => "LSHL " ++ toString k
  | .lshr k => "LSHR " ++ toString k
  | .vdelta1 => "VDELTA1"
  | .vpsum1 => "VPSUM1"
  | .vdelta4 => "VDELTA4"
  | .vundelta4 => "VUNDELTA4"
  | .vmaxbits => "VMAXBITS"
  | .delta1 => "DELTA1"
  | .undelta1 => "UNDELTA1"
  | .delta4 => "DELTA4"
  | .undelta4 => "UNDELTA4"
  | .prefixsum => "PREFIXSUM"
  | .bpBlocksize => "BP.BLOCKSIZE"
  | .bpMaxlen => "BP.MAXLEN"
  | .bpDeclen => "BP.DECLEN"
  | .bpEnc => "BP.ENC"
  | .bpDec => "BP.DEC"
  | .svbBlocksize => "SVB.BLOCKSIZE"
  | .svbMaxlen => "SVB.MAXLEN"
  | .svbDeclen => "SVB.DECLEN"
  | .svbEnc => "SVB.ENC"
  | .svbDec => "SVB.DEC"
  | .compBlocksize => "COMP.BLOCKSIZE"
  | .compMaxlen => "COMP.MAXLEN"
  | .compDeclen => "COMP.DECLEN"
  | .compEnc => "COMP.ENC"
  | .compDec => "COMP.DEC"

end Sys2Proof
end

