-- ==== Sys2Proof/Machine/Operands.lean ====
section
/-!
DEFINITION. The operands of a command: the windows its registers declare and the unit each register has for it (20_memory.md R66), the
checks on windows (R70), and, for every command, which windows it has.
-/

namespace Sys2Proof.Machine

/-- `SW` of an `ENC` and of the transforms: `SRC_LEN` elements (20_memory.md R66). -/
def State.srcElements (s : State) : Window := ⟨s.src.toNat, 4 * s.srcLen.toNat⟩

/-- `SW` of a `DEC` and of a `DECLEN`: `SRC_LEN` bytes (20_memory.md R66). -/
def State.srcBytes (s : State) : Window := ⟨s.src.toNat, s.srcLen.toNat⟩

/-- `DW` of an `ENC`: `DST_CAP` bytes (20_memory.md R66). -/
def State.dstBytes (s : State) : Window := ⟨s.dst.toNat, s.dstCap.toNat⟩

/-- `DW` of a `DEC`: `DST_CAP` elements (20_memory.md R66). -/
def State.dstElements (s : State) : Window := ⟨s.dst.toNat, 4 * s.dstCap.toNat⟩

/-- The window runs past the top of the address space (20_memory.md R70 (a)); one that ends there does not (assumption log 21). -/
def Window.pastTop (w : Window) : Bool := Config.addressSpace < w.base + w.size

/-- Both windows are non-empty and share a byte (20_memory.md R70 (b)). -/
def Window.overlaps (sw dw : Window) : Bool :=
  0 < sw.size && 0 < dw.size && sw.base < dw.base + dw.size && dw.base < sw.base + sw.size

/-- `Accessible(a)`: the address lies in no hole of the platform (00_scope.md R9, 20_memory.md R72). Assumption log 3. -/
def accessible (holes : List Hole) (a : Nat) : Bool := holes.all fun h => !(h.lo ≤ a && a < h.hi)

/-- Some byte of the window is not accessible (20_memory.md R70 (c)), told from the ends of the window and of each hole; an empty
window has no such byte. `Laws/Windows.lean` proves that it means what it says. -/
def Window.blocked (holes : List Hole) (w : Window) : Bool :=
  0 < w.size && holes.any fun h => h.lo < h.hi && h.lo < w.base + w.size && w.base < h.hi

/-- The source window a command declares (20_memory.md R66). -/
def sourceWindow (i : Instr) (s : State) : Option Window :=
  match i with
  | .bpEnc | .svbEnc | .compEnc => some s.srcElements
  | .bpDec | .svbDec | .compDec => some s.srcBytes
  | .bpDeclen | .svbDeclen | .compDeclen => some s.srcBytes
  | .delta1 | .undelta1 | .delta4 | .undelta4 | .prefixsum => some s.srcElements
  | .bpMaxlen | .svbMaxlen | .compMaxlen | .bpBlocksize | .svbBlocksize | .compBlocksize => none
  | .lshl _ | .lshr _ | .vdelta1 | .vpsum1 | .vdelta4 | .vundelta4 | .vmaxbits => none

/-- The destination window a command declares (20_memory.md R66). -/
def destWindow (i : Instr) (s : State) : Option Window :=
  match i with
  | .bpEnc | .svbEnc | .compEnc => some s.dstBytes
  | .bpDec | .svbDec | .compDec => some s.dstElements
  | .bpDeclen | .svbDeclen | .compDeclen => none
  | .delta1 | .undelta1 | .delta4 | .undelta4 | .prefixsum => none
  | .bpMaxlen | .svbMaxlen | .compMaxlen | .bpBlocksize | .svbBlocksize | .compBlocksize => none
  | .lshl _ | .lshr _ | .vdelta1 | .vpsum1 | .vdelta4 | .vundelta4 | .vmaxbits => none

/-- The window a command may write: `DW`, or for the in-place transforms `SW` (20_memory.md R67). -/
def writableWindow (i : Instr) (s : State) : Option Window :=
  match i with
  | .delta1 | .undelta1 | .delta4 | .undelta4 | .prefixsum => sourceWindow i s
  | .bpEnc | .svbEnc | .compEnc | .bpDec | .svbDec | .compDec => destWindow i s
  | .bpDeclen | .svbDeclen | .compDeclen => destWindow i s
  | .bpMaxlen | .svbMaxlen | .compMaxlen | .bpBlocksize | .svbBlocksize | .compBlocksize => destWindow i s
  | .lshl _ | .lshr _ | .vdelta1 | .vpsum1 | .vdelta4 | .vundelta4 | .vmaxbits => destWindow i s

end Sys2Proof.Machine
end

