-- ==== Sys2Proof/Machine/Codec.lean ====
section
/-!
DEFINITION. The shared codec contract as pure functions (42_codec_contract.md R170 to R177) and the command wrappers around them
(R178 to R182).
-/

namespace Sys2Proof.Machine

/-- A codec (42_codec_contract.md R170); `none` is the contract's `fault`. `encRange` is the extra range condition on `ENC` that only
the composite has (R181, 45_composite.md R255). -/
structure Codec where
  blockSize : Nat
  maxLen : Nat → Nat
  decLen : List Byte → Option (Nat × Nat)
  encode : List Word → List Byte
  decode : List Byte → Nat → Option (List Word × Nat)
  encRange : Nat → Bool

/-- `X.BLOCKSIZE` (42_codec_contract.md R178). -/
def runBlockSize (x : Codec) (s : State) : State := s.succeed x.blockSize 0

/-- `X.MAXLEN` (42_codec_contract.md R179). -/
def runMaxLen (x : Codec) (s : State) : State :=
  if 2 ^ 64 ≤ x.maxLen s.srcLen.toNat then s.raise .operandRange
  else s.succeed (x.maxLen s.srcLen.toNat) 0

/-- The checks of `X.DECLEN` that precede its reading memory, in order (42_codec_contract.md R180). -/
def declenFault (s : State) : Option Cause :=
  if s.srcBytes.pastTop then some .operandRange
  else if s.srcBytes.blocked s.holes then some .accessFault
  else none

/-- `X.DECLEN` (42_codec_contract.md R180). -/
def runDeclen (x : Codec) (s : State) : State :=
  match declenFault s with
  | some c => s.raise c
  | none =>
    match x.decLen (s.mem.readBytes s.src.toNat s.srcLen.toNat) with
    | none => s.raise .truncated
    | some (count, headerBytes) => s.succeed count headerBytes

/-- The checks of `X.ENC`, in order (42_codec_contract.md R181, 60_exceptions.md R276). -/
def encFault (x : Codec) (s : State) : Option Cause :=
  if 2 ^ 32 ≤ s.srcLen.toNat || !x.encRange s.srcLen.toNat then some .operandRange
  else if s.srcElements.pastTop || s.dstBytes.pastTop then some .operandRange
  else if s.srcLen.toNat % x.blockSize ≠ 0 then some .inputLength
  else if s.dstCap.toNat < x.maxLen s.srcLen.toNat then some .outputCapacity
  else if s.srcElements.overlaps s.dstBytes then some .aliasing
  else if s.srcElements.blocked s.holes || s.dstBytes.blocked s.holes then some .accessFault
  else none

/-- The stream `X.ENC` writes: the encoding of the source buffer (42_codec_contract.md R181). -/
def encOutput (x : Codec) (s : State) : List Byte := x.encode (s.mem.readWords s.src.toNat s.srcLen.toNat)

/-- `X.ENC` (42_codec_contract.md R181). -/
def runEnc (x : Codec) (s : State) : State :=
  match encFault x s with
  | some c => s.raise c
  | none => (s.storeBytes s.dst.toNat (encOutput x s)).succeed (encOutput x s).length s.srcLen.toNat

/-- The checks of `X.DEC` that precede its reading memory, in order (42_codec_contract.md R182, 60_exceptions.md R276). DESIGN
CHOICE: a destination of 2^62 elements at address 0 ends exactly at 2^64 and passes the first. Assumption log 21. -/
def decFault (s : State) : Option Cause :=
  if s.srcBytes.pastTop || s.dstElements.pastTop then some .operandRange
  else if s.srcBytes.overlaps s.dstElements then some .aliasing
  else if s.srcBytes.blocked s.holes || s.dstElements.blocked s.holes then some .accessFault
  else none

/-- What `X.DEC` decodes: the source bytes, with room for `DST_CAP` elements (42_codec_contract.md R182). -/
def decOutput (x : Codec) (s : State) : Option (List Word × Nat) :=
  x.decode (s.mem.readBytes s.src.toNat s.srcLen.toNat) s.dstCap.toNat

/-- `X.DEC` (42_codec_contract.md R182): a stream that does not decode leaves every byte of `DW` unspecified (20_memory.md R69). -/
def runDec (x : Codec) (s : State) : State :=
  match decFault s with
  | some c => s.raise c
  | none =>
    match decOutput x s with
    | none => (s.scribble s.dstElements).raise .truncated
    | some (ys, consumed) => (s.storeWords s.dst.toNat ys).succeed ys.length consumed

end Sys2Proof.Machine
end

