-- ==== Sys2Proof/Machine/Xform.lean ====
section
/-!
DEFINITION. The difference and prefix-sum transforms: the pure functions (41_transforms.md R151 to R155) and the commands of `UNIT` 1,
in place on the source window (R150).
-/

namespace Sys2Proof.Machine

/-- Order-1 differences, `prev` the element before the first (41_transforms.md R151). -/
def delta1From (prev : Word) : List Word → List Word
  | [] => []
  | x :: xs => (x - prev) :: delta1From x xs

/-- `Delta1`: `x[-1] = 0` (41_transforms.md R151). -/
def delta1 (xs : List Word) : List Word := delta1From 0 xs

/-- Running sums, `prev` the sum before the first (41_transforms.md R152). -/
def undelta1From (prev : Word) : List Word → List Word
  | [] => []
  | d :: ds => (prev + d) :: undelta1From (prev + d) ds

/-- `Undelta1` (41_transforms.md R152). -/
def undelta1 (xs : List Word) : List Word := undelta1From 0 xs

/-- Order-4 differences, `p0 p1 p2 p3` the four elements before the first (41_transforms.md R153, 43_block_codec.md R193). -/
def delta4From (p0 p1 p2 p3 : Word) : List Word → List Word
  | [] => []
  | x :: xs => (x - p0) :: delta4From p1 p2 p3 x xs

/-- `Delta4`: `x[-4..-1] = 0` (41_transforms.md R153). -/
def delta4 (xs : List Word) : List Word := delta4From 0 0 0 0 xs

/-- The inverse, `p0 p1 p2 p3` the four results before the first (41_transforms.md R154). -/
def undelta4From (p0 p1 p2 p3 : Word) : List Word → List Word
  | [] => []
  | d :: ds => (p0 + d) :: undelta4From p1 p2 p3 (p0 + d) ds

/-- `Undelta4` (41_transforms.md R154). -/
def undelta4 (xs : List Word) : List Word := undelta4From 0 0 0 0 xs

/-- `PrefixSum`, the same function as `Undelta1` (41_transforms.md R155). -/
def prefixSum (xs : List Word) : List Word := undelta1 xs

/-- The checks of a transform, in order (41_transforms.md R150). DESIGN CHOICE: 2^62 elements at address 0 end exactly at 2^64 and pass,
by the formula of R150, R70 (a) and R275, against R275's note that such a length always faults. Assumption log 21. -/
def transformFault (s : State) : Option Cause :=
  if s.srcElements.pastTop then some .operandRange
  else if s.srcElements.blocked s.holes then some .accessFault
  else none

/-- A transform with pure function `f`: the whole input is read, then the output written over it (41_transforms.md R150). -/
def runTransform (f : List Word → List Word) (s : State) : State :=
  match transformFault s with
  | some c => s.raise c
  | none =>
    (s.storeWords s.src.toNat (f (s.mem.readWords s.src.toNat s.srcLen.toNat))).succeed s.srcLen.toNat s.srcLen.toNat

/-- `DELTA1` (41_transforms.md R151). -/
def execDelta1 (s : State) : Host.Outcome State Fault Refusal := .next (runTransform delta1 s)

/-- `UNDELTA1` (41_transforms.md R152). -/
def execUndelta1 (s : State) : Host.Outcome State Fault Refusal := .next (runTransform undelta1 s)

/-- `DELTA4` (41_transforms.md R153). -/
def execDelta4 (s : State) : Host.Outcome State Fault Refusal := .next (runTransform delta4 s)

/-- `UNDELTA4` (41_transforms.md R154). -/
def execUndelta4 (s : State) : Host.Outcome State Fault Refusal := .next (runTransform undelta4 s)

/-- `PREFIXSUM` (41_transforms.md R155). -/
def execPrefixsum (s : State) : Host.Outcome State Fault Refusal := .next (runTransform prefixSum s)

end Sys2Proof.Machine
end

