-- ==== Sys2Proof/Machine/Bp.lean ====
section
/-!
DEFINITION. The block bit-packing codec S4·BP128·D4 (43_block_codec.md R190 to R202; stream format 30_encoding.md R102 to R106) and
its five commands.
-/

namespace Sys2Proof.Machine

/-- `BP_MaxLen` (43_block_codec.md R191). -/
def bpMaxLen (n : Nat) : Nat := 4 + 16 * ceilDiv (ceilDiv n 128) 16 + 512 * ceilDiv n 128

/-- The 4-byte count that a `BP` stream and an `SVB` stream begin with (43_block_codec.md R192, 44_streamvbyte.md R222). -/
def countHeader (s : List Byte) : Option (Nat × Nat) :=
  if s.length < 4 then none else some ((u32at s 0).toNat, 4)

/-- `BP_DecLen` (43_block_codec.md R192). -/
def bpDecLen (s : List Byte) : Option (Nat × Nat) := countHeader s

/-- The bit width of a miniblock, given its deltas (43_block_codec.md R194). -/
def bpWidth (d : List Word) : Nat := bits32 (orAll d)

/-- The fields `f[0], f[1], …` of `b` bits each as one number, the first lowest: `S_j` (43_block_codec.md R195). -/
def packFields (b : Nat) : List Word → Nat
  | [] => 0
  | f :: fs => f.toNat + 2 ^ b * packFields b fs

/-- Lane `j`'s deltas `d[j], d[4 + j], …, d[124 + j]` (43_block_codec.md R195). -/
def laneOf (d : List Word) (j : Nat) : List Word := (List.range 32).map fun i => d.getD (4 * i + j) 0

/-- `Pack(d, b)`: the words `W[0..4b)`, `W[4t + j]` bits `32t .. 32t + 31` of lane `j`'s number (30_encoding.md R105,
43_block_codec.md R195). -/
def pack (d : List Word) (b : Nat) : List Word :=
  (List.range b).flatMap fun t =>
    (List.range 4).map fun j => BitVec.ofNat 32 (packFields b (laneOf d j) >>> (32 * t))

/-- `S_j = sum over t of W[4t + j] * 2^(32t)` (43_block_codec.md R195). -/
def laneNumber (w : List Word) (j : Nat) : Nat → Nat
  | 0 => 0
  | b + 1 => laneNumber w j b + (w.getD (4 * b + j) 0).toNat * 2 ^ (32 * b)

/-- `Unpack(W, b)`: `d[4i + j]` is bits `bi .. bi + b - 1` of lane `j`'s number (43_block_codec.md R195). -/
def unpack (w : List Word) (b : Nat) : List Word :=
  (List.range 32).flatMap fun i =>
    (List.range 4).map fun j => BitVec.ofNat 32 ((laneNumber w j b >>> (b * i)) % 2 ^ b)

/-- One header word: four widths, the first in the most significant byte, 0 in an unused slot (30_encoding.md R103, R104). -/
def headerWord (ws : List Nat) : Word :=
  BitVec.ofNat 32 (ws.getD 0 0 * 2 ^ 24 + ws.getD 1 0 * 2 ^ 16 + ws.getD 2 0 * 2 ^ 8 + ws.getD 3 0)

/-- The `ceil(r/4)` header words of a superblock of `r` miniblocks (30_encoding.md R103, R104). -/
def headerWords (ws : List Nat) : List Word := (chunk 4 (ceilDiv ws.length 4) ws).map headerWord

/-- A superblock: its header, then the packed data of its miniblocks in order (43_block_codec.md R197). -/
def bpSuperblock (mbs : List (List Word)) : List Byte :=
  bytesOf (headerWords (mbs.map bpWidth)) ++ mbs.flatMap fun d => bytesOf (pack d (bpWidth d))

/-- `BP_Encode` (43_block_codec.md R193, R197). -/
def bpEncode (x : List Word) : List Byte :=
  le32 (BitVec.ofNat 32 x.length) ++
    (chunk 16 (ceilDiv (x.length / 128) 16) (chunk 128 (x.length / 128) (delta4 x))).flatMap bpSuperblock

/-- Width byte `q` of a superblock whose header starts the sequence (43_block_codec.md R198). -/
def headerWidth (s : List Byte) (q : Nat) : Nat := ((u32at s (4 * (q / 4))).toNat >>> (24 - 8 * (q % 4))) % 256

/-- The miniblocks of a superblock, one for each width, from the start of the sequence: their deltas, and what is left of the
sequence (43_block_codec.md R198). -/
def bpMiniblocks : List Nat → List Byte → Option (List Word × List Byte)
  | [], s => some ([], s)
  | b :: bs, s =>
    if 32 < b then none
    else if s.length < 16 * b then none
    else match bpMiniblocks bs (s.drop (16 * b)) with
      | none => none
      | some (d, rest) => some (unpack (wordsOf (4 * b) s) b ++ d, rest)

/-- `count` superblocks holding `m` miniblocks, from the start of the sequence: their deltas, and what is left of the sequence
(43_block_codec.md R198). -/
def bpSuperblocks : Nat → Nat → List Byte → Option (List Word × List Byte)
  | 0, _, s => some ([], s)
  | count + 1, m, s =>
    if s.length < 4 * ceilDiv (min 16 m) 4 then none
    else match bpMiniblocks ((List.range (min 16 m)).map (headerWidth s)) (s.drop (4 * ceilDiv (min 16 m) 4)) with
      | none => none
      | some (d, rest) =>
        match bpSuperblocks count (m - min 16 m) rest with
        | none => none
        | some (ds, last) => some (d ++ ds, last)

/-- `BP_Decode` (43_block_codec.md R198): the values are `Undelta4` of all deltas, and every byte must have been used. The cursor
`pos` of the rule is here what is left of the stream. Assumption log 17. -/
def bpDecode (s : List Byte) (cap : Nat) : Option (List Word × Nat) :=
  if s.length < 4 then none
  else if (u32at s 0).toNat % 128 ≠ 0 then none
  else if cap < (u32at s 0).toNat then none
  else match bpSuperblocks (ceilDiv ((u32at s 0).toNat / 128) 16) ((u32at s 0).toNat / 128) (s.drop 4) with
    | none => none
    | some (d, rest) => if rest.length ≠ 0 then none else some (undelta4 d, s.length)

/-- The codec `BP` (43_block_codec.md R190 to R201). -/
def bp : Codec where
  blockSize := 128
  maxLen := bpMaxLen
  decLen := bpDecLen
  encode := bpEncode
  decode := bpDecode
  encRange := fun _ => true

/-- `BP.BLOCKSIZE` (43_block_codec.md R190). -/
def execBpBlocksize (s : State) : Host.Outcome State Fault Refusal := .next (runBlockSize bp s)

/-- `BP.MAXLEN` (43_block_codec.md R191). -/
def execBpMaxlen (s : State) : Host.Outcome State Fault Refusal := .next (runMaxLen bp s)

/-- `BP.DECLEN` (43_block_codec.md R192). -/
def execBpDeclen (s : State) : Host.Outcome State Fault Refusal := .next (runDeclen bp s)

/-- `BP.ENC` (43_block_codec.md R199). -/
def execBpEnc (s : State) : Host.Outcome State Fault Refusal := .next (runEnc bp s)

/-- `BP.DEC` (43_block_codec.md R201). -/
def execBpDec (s : State) : Host.Outcome State Fault Refusal := .next (runDec bp s)

end Sys2Proof.Machine
end

