-- ==== Sys2Proof/Machine/Svb.lean ====
section
/-!
DEFINITION. The byte-length adaptive codec StreamVByte·D1 (44_streamvbyte.md R220 to R231; stream format 30_encoding.md R107 to R110)
and its five commands. The decoder here is the scalar definition, which is the architecture (R228); the vectorised one is in
Vectorised.lean.
-/

namespace Sys2Proof.Machine

/-- `SVB_MaxLen` (44_streamvbyte.md R221). -/
def svbMaxLen (n : Nat) : Nat := 4 + ceilDiv n 4 + 4 * n

/-- `SVB_DecLen` (44_streamvbyte.md R222). -/
def svbDecLen (s : List Byte) : Option (Nat × Nat) := countHeader s

/-- `Code`: code `c` stands for `c + 1` bytes (44_streamvbyte.md R223). -/
def svbCode (delta : Word) : Nat :=
  if delta.toNat < 2 ^ 8 then 0
  else if delta.toNat < 2 ^ 16 then 1
  else if delta.toNat < 2 ^ 24 then 2
  else 3

/-- A key byte from the codes of its values, the first in the low bits, 0 in an unused field (30_encoding.md R108). -/
def svbKey : List Nat → Nat
  | [] => 0
  | c :: cs => c ||| (svbKey cs <<< 2)

/-- The `ceil(n/4)` key bytes of `n` codes (30_encoding.md R108, 44_streamvbyte.md R225). -/
def svbKeys (codes : List Nat) : List Byte :=
  (chunk 4 (ceilDiv codes.length 4) codes).map fun cs => BitVec.ofNat 8 (svbKey cs)

/-- The data bytes of a delta (30_encoding.md R109). -/
def svbRecord (delta : Word) : List Byte := leN delta (svbCode delta + 1)

/-- `SVB_Encode` (44_streamvbyte.md R224, R225). -/
def svbEncode (x : List Word) : List Byte :=
  le32 (BitVec.ofNat 32 x.length) ++ svbKeys ((delta1 x).map svbCode) ++ (delta1 x).flatMap svbRecord

/-- The control code of value `i` (30_encoding.md R108, 44_streamvbyte.md R228). -/
def svbCodeAt (keys : List Byte) (i : Nat) : Nat := ((keys.getD (i / 4) 0).toNat >>> (2 * (i % 4))) % 4

/-- The scalar loop for `count` values from value `i` on, `prev` the value before, `data` the data region from the cursor on: the
values, and how many data bytes they used (44_streamvbyte.md R228). -/
def svbValues (keys : List Byte) : Nat → Nat → Word → List Byte → Option (List Word × Nat)
  | 0, _, _, _ => some ([], 0)
  | count + 1, i, prev, data =>
    if data.length < svbCodeAt keys i + 1 then none
    else match svbValues keys count (i + 1) (prev + BitVec.ofNat 32 (uat data 0 (svbCodeAt keys i + 1)))
        (data.drop (svbCodeAt keys i + 1)) with
      | none => none
      | some (ys, used) =>
        some ((prev + BitVec.ofNat 32 (uat data 0 (svbCodeAt keys i + 1))) :: ys, svbCodeAt keys i + 1 + used)

/-- `SVB_Decode` (44_streamvbyte.md R228); bytes after the last record are ignored (R231). -/
def svbDecode (s : List Byte) (cap : Nat) : Option (List Word × Nat) :=
  if s.length < 4 then none
  else if cap < (u32at s 0).toNat then none
  else if s.length < 4 + ceilDiv (u32at s 0).toNat 4 then none
  else match svbValues ((s.drop 4).take (ceilDiv (u32at s 0).toNat 4)) (u32at s 0).toNat 0 0
      (s.drop (4 + ceilDiv (u32at s 0).toNat 4)) with
    | none => none
    | some (ys, used) => some (ys, 4 + ceilDiv (u32at s 0).toNat 4 + used)

/-- The codec `SVB` (44_streamvbyte.md R220 to R230). -/
def svb : Codec where
  blockSize := 1
  maxLen := svbMaxLen
  decLen := svbDecLen
  encode := svbEncode
  decode := svbDecode
  encRange := fun _ => true

/-- `SVB.BLOCKSIZE` (44_streamvbyte.md R220). -/
def execSvbBlocksize (s : State) : Host.Outcome State Fault Refusal := .next (runBlockSize svb s)

/-- `SVB.MAXLEN` (44_streamvbyte.md R221). -/
def execSvbMaxlen (s : State) : Host.Outcome State Fault Refusal := .next (runMaxLen svb s)

/-- `SVB.DECLEN` (44_streamvbyte.md R222). -/
def execSvbDeclen (s : State) : Host.Outcome State Fault Refusal := .next (runDeclen svb s)

/-- `SVB.ENC` (44_streamvbyte.md R226). -/
def execSvbEnc (s : State) : Host.Outcome State Fault Refusal := .next (runEnc svb s)

/-- `SVB.DEC` (44_streamvbyte.md R230). -/
def execSvbDec (s : State) : Host.Outcome State Fault Refusal := .next (runDec svb s)

end Sys2Proof.Machine
end

