-- ==== Sys2Proof/Machine/Comp.lean ====
section
/-!
DEFINITION. The composite codec combinator (45_composite.md R249 to R259; stream format 30_encoding.md R101), written over any bulk
codec `a` and remainder codec `z` (R259), its one instance `COMP` (00_scope.md R3), and the five commands.
-/

namespace Sys2Proof.Machine

/-- `h`: the largest multiple of the bulk block size that is at most `n` (45_composite.md R249). -/
def headLength (a : Codec) (n : Nat) : Nat := n / a.blockSize * a.blockSize

/-- `COMP_MaxLen` (45_composite.md R251). -/
def compositeMaxLen (a z : Codec) (n : Nat) : Nat := 4 + a.maxLen (headLength a n) + z.maxLen (n - headLength a n)

/-- `Slices`: the bulk slice and the rest (45_composite.md R252). -/
def compositeSlices (s : List Byte) : Option (List Byte × List Byte) :=
  if s.length < 4 then none
  else if s.length < 4 + (u32at s 0).toNat then none
  else some ((s.drop 4).take (u32at s 0).toNat, s.drop (4 + (u32at s 0).toNat))

/-- `COMP_DecLen` (45_composite.md R253). -/
def compositeDecLen (a z : Codec) (s : List Byte) : Option (Nat × Nat) :=
  match compositeSlices s with
  | none => none
  | some (bulk, rest) =>
    match a.decLen bulk with
    | none => none
    | some (ca, ha) =>
      match z.decLen rest with
      | none => none
      | some (cz, hz) => some (ca + cz, 4 + ha + hz)

/-- `COMP_Encode`: head and tail are two independent calls (45_composite.md R249, R254). -/
def compositeEncode (a z : Codec) (x : List Word) : List Byte :=
  le32 (BitVec.ofNat 32 (a.encode (x.take (headLength a x.length))).length) ++
    a.encode (x.take (headLength a x.length)) ++ z.encode (x.drop (headLength a x.length))

/-- `COMP_Decode` (45_composite.md R256). -/
def compositeDecode (a z : Codec) (s : List Byte) (cap : Nat) : Option (List Word × Nat) :=
  match compositeSlices s with
  | none => none
  | some (bulk, rest) =>
    match a.decode bulk cap with
    | none => none
    | some (ya, ca) =>
      if ca ≠ bulk.length then none
      else match z.decode rest (cap - ya.length) with
        | none => none
        | some (yz, cz) => some (ya ++ yz, 4 + bulk.length + cz)

/-- The composite of two codecs is a codec (45_composite.md R259); `encRange` is 45_composite.md R255's condition on the bulk bound,
which makes the bulk length fit its 4-byte field. -/
def composite (a z : Codec) : Codec where
  blockSize := z.blockSize
  maxLen := compositeMaxLen a z
  decLen := compositeDecLen a z
  encode := compositeEncode a z
  decode := compositeDecode a z
  encRange := fun n => a.maxLen (headLength a n) < 2 ^ 32

/-- The codec `COMP`: bulk `BP`, remainder `SVB` (00_scope.md R3, 45_composite.md R249). -/
def comp : Codec := composite bp svb

/-- `COMP.BLOCKSIZE` (45_composite.md R250). -/
def execCompBlocksize (s : State) : Host.Outcome State Fault Refusal := .next (runBlockSize comp s)

/-- `COMP.MAXLEN` (45_composite.md R251). -/
def execCompMaxlen (s : State) : Host.Outcome State Fault Refusal := .next (runMaxLen comp s)

/-- `COMP.DECLEN` (45_composite.md R253). -/
def execCompDeclen (s : State) : Host.Outcome State Fault Refusal := .next (runDeclen comp s)

/-- `COMP.ENC` (45_composite.md R255). -/
def execCompEnc (s : State) : Host.Outcome State Fault Refusal := .next (runEnc comp s)

/-- `COMP.DEC` (45_composite.md R257). -/
def execCompDec (s : State) : Host.Outcome State Fault Refusal := .next (runDec comp s)

end Sys2Proof.Machine
end

