-- ==== Sys2Proof/Machine/Vector.lean ====
section
/-!
DEFINITION. The pure functions on vectors (40_lane_primitives.md R131 to R138), with the table-driven form of the lane shifts (R133)
and the shuffle of the vectorised decoder (44_streamvbyte.md R233).
-/

namespace Sys2Proof.Machine

/-- The vector as one `u128` (00_scope.md R17). -/
def Vec.toU128 (v : Vec) : BitVec 128 := v.l3 ++ v.l2 ++ v.l1 ++ v.l0

/-- The vector of a `u128` (00_scope.md R17). -/
def Vec.ofU128 (x : BitVec 128) : Vec :=
  ⟨x.extractLsb' 0 32, x.extractLsb' 32 32, x.extractLsb' 64 32, x.extractLsb' 96 32⟩

/-- Byte `B[i]` of a vector, `i` in 0..15 (00_scope.md R17, 10_state.md R30). -/
def Vec.byte (v : Vec) (i : Nat) : Byte := (Vec.toU128 v).extractLsb' (8 * i) 8

/-- The vector whose bytes are `f 0, …, f 15` (00_scope.md R17). -/
def Vec.ofBytes (f : Nat → Byte) : Vec :=
  ⟨f 3 ++ f 2 ++ f 1 ++ f 0, f 7 ++ f 6 ++ f 5 ++ f 4, f 11 ++ f 10 ++ f 9 ++ f 8, f 15 ++ f 14 ++ f 13 ++ f 12⟩

/-- The lanes in buffer order (00_scope.md R17). -/
def Vec.lanes (v : Vec) : List Word := [v.l0, v.l1, v.l2, v.l3]

/-- The vector of the first four elements, missing ones 0 (00_scope.md R17). -/
def Vec.ofList (xs : List Word) : Vec := ⟨xs.getD 0 0, xs.getD 1 0, xs.getD 2 0, xs.getD 3 0⟩

/-- The vector with all lanes 0. -/
def Vec.zero : Vec := ⟨0, 0, 0, 0⟩

/-- The vector with all lanes `x`. -/
def Vec.splat (x : Word) : Vec := ⟨x, x, x, x⟩

/-- A lane-wise operation; no lane carries into another (40_lane_primitives.md R130). -/
def Vec.map2 (f : Word → Word → Word) (a b : Vec) : Vec := ⟨f a.l0 b.l0, f a.l1 b.l1, f a.l2 b.l2, f a.l3 b.l3⟩

/-- `ShlBytes(V, k) = (V * 2^(8k)) mod 2^128` (40_lane_primitives.md R131). -/
def shlBytes (v : Vec) (k : Nat) : Vec := Vec.ofU128 (Vec.toU128 v <<< (8 * k))

/-- `ShrBytes(V, k) = floor(V / 2^(8k))` (40_lane_primitives.md R132). -/
def shrBytes (v : Vec) (k : Nat) : Vec := Vec.ofU128 (Vec.toU128 v >>> (8 * k))

/-- The byte gather: index `none`, which the spec writes `-1`, fills with zero (40_lane_primitives.md R133, 44_streamvbyte.md R233). -/
def gather (v : Vec) (idx : Nat → Option Nat) : Vec :=
  Vec.ofBytes fun i => match idx i with
    | none => 0
    | some j => Vec.byte v j

/-- The gather table of the left shift (40_lane_primitives.md R133). -/
def idxLeft (k i : Nat) : Option Nat := if k ≤ i then some (i - k) else none

/-- The gather table of the right shift (40_lane_primitives.md R133). -/
def idxRight (k i : Nat) : Option Nat := if i + k ≤ 15 then some (i + k) else none

/-- `Delta1V` (40_lane_primitives.md R134). -/
def delta1V (cur prev : Vec) : Vec :=
  ⟨cur.l0 - prev.l3, cur.l1 - cur.l0, cur.l2 - cur.l1, cur.l3 - cur.l2⟩

/-- `PSum1V`, the closed form (40_lane_primitives.md R135). -/
def psum1V (d prev : Vec) : Vec :=
  ⟨prev.l3 + d.l0, prev.l3 + d.l0 + d.l1, prev.l3 + d.l0 + d.l1 + d.l2, prev.l3 + d.l0 + d.l1 + d.l2 + d.l3⟩

/-- The shift-and-add sequence that computes `PSum1V` (40_lane_primitives.md R135). -/
def psum1VShiftAdd (d prev : Vec) : Vec :=
  let t1 := Vec.map2 (· + ·) d (shlBytes d 4)
  let t2 := Vec.map2 (· + ·) t1 (shlBytes t1 8)
  Vec.map2 (· + ·) t2 (Vec.splat prev.l3)

/-- `Delta4V` (40_lane_primitives.md R136). -/
def delta4V (cur prev : Vec) : Vec := Vec.map2 (· - ·) cur prev

/-- `Undelta4V` (40_lane_primitives.md R137). -/
def undelta4V (d prev : Vec) : Vec := Vec.map2 (· + ·) d prev

/-- `HOr` (40_lane_primitives.md R138). -/
def hOr (v : Vec) : Word := v.l0 ||| v.l1 ||| v.l2 ||| v.l3

/-- `MaxBits` (40_lane_primitives.md R138). -/
def maxBits (v : Vec) : Nat := bits32 (hOr v)

end Sys2Proof.Machine
end

