-- ==== Sys2Proof/Machine/Lane.lean ====
section
/-!
DEFINITION. The commands of `UNIT` 0, on the vector registers alone (40_lane_primitives.md R130 to R138).
-/

namespace Sys2Proof.Machine

/-- A vector command that writes `VR`: `RESULT` and `CONSUMED` become 0 (40_lane_primitives.md R130). -/
def State.vectorResult (v : Vec) (s : State) : State := State.succeed 0 0 { s with vr := v }

/-- `LSHL k` (40_lane_primitives.md R131). -/
def execLshl (k : Nat) (s : State) : Host.Outcome State Fault Refusal := .next (s.vectorResult (shlBytes s.va k))

/-- `LSHR k` (40_lane_primitives.md R132). -/
def execLshr (k : Nat) (s : State) : Host.Outcome State Fault Refusal := .next (s.vectorResult (shrBytes s.va k))

/-- `VDELTA1` (40_lane_primitives.md R134). -/
def execVdelta1 (s : State) : Host.Outcome State Fault Refusal := .next (s.vectorResult (delta1V s.va s.vb))

/-- `VPSUM1` (40_lane_primitives.md R135). -/
def execVpsum1 (s : State) : Host.Outcome State Fault Refusal := .next (s.vectorResult (psum1V s.va s.vb))

/-- `VDELTA4` (40_lane_primitives.md R136). -/
def execVdelta4 (s : State) : Host.Outcome State Fault Refusal := .next (s.vectorResult (delta4V s.va s.vb))

/-- `VUNDELTA4` (40_lane_primitives.md R137). -/
def execVundelta4 (s : State) : Host.Outcome State Fault Refusal := .next (s.vectorResult (undelta4V s.va s.vb))

/-- `VMAXBITS`: the width goes to `RESULT`, `VR` is unchanged (40_lane_primitives.md R138). -/
def execVmaxbits (s : State) : Host.Outcome State Fault Refusal := .next (s.succeed (maxBits s.va) 0)

end Sys2Proof.Machine
end

