-- ==== Sys2Proof/Machine/Dispatch.lean ====
section
/-!
DEFINITION. The dispatch of 30_encoding.md R95: the rule of the row, for each of the 27 rows of the command map.
-/

namespace Sys2Proof.Machine

/-- Executes a decoded command (30_encoding.md R95). -/
def exec (i : Instr) (s : State) : Host.Outcome State Fault Refusal :=
  match i with
  | .lshl k => Sys2Proof.Machine.execLshl k s
  | .lshr k => Sys2Proof.Machine.execLshr k s
  | .vdelta1 => Sys2Proof.Machine.execVdelta1 s
  | .vpsum1 => Sys2Proof.Machine.execVpsum1 s
  | .vdelta4 => Sys2Proof.Machine.execVdelta4 s
  | .vundelta4 => Sys2Proof.Machine.execVundelta4 s
  | .vmaxbits => Sys2Proof.Machine.execVmaxbits s
  | .delta1 => Sys2Proof.Machine.execDelta1 s
  | .undelta1 => Sys2Proof.Machine.execUndelta1 s
  | .delta4 => Sys2Proof.Machine.execDelta4 s
  | .undelta4 => Sys2Proof.Machine.execUndelta4 s
  | .prefixsum => Sys2Proof.Machine.execPrefixsum s
  | .bpBlocksize => Sys2Proof.Machine.execBpBlocksize s
  | .bpMaxlen => Sys2Proof.Machine.execBpMaxlen s
  | .bpDeclen => Sys2Proof.Machine.execBpDeclen s
  | .bpEnc => Sys2Proof.Machine.execBpEnc s
  | .bpDec => Sys2Proof.Machine.execBpDec s
  | .svbBlocksize => Sys2Proof.Machine.execSvbBlocksize s
  | .svbMaxlen => Sys2Proof.Machine.execSvbMaxlen s
  | .svbDeclen => Sys2Proof.Machine.execSvbDeclen s
  | .svbEnc => Sys2Proof.Machine.execSvbEnc s
  | .svbDec => Sys2Proof.Machine.execSvbDec s
  | .compBlocksize => Sys2Proof.Machine.execCompBlocksize s
  | .compMaxlen => Sys2Proof.Machine.execCompMaxlen s
  | .compDeclen => Sys2Proof.Machine.execCompDeclen s
  | .compEnc => Sys2Proof.Machine.execCompEnc s
  | .compDec => Sys2Proof.Machine.execCompDec s

end Sys2Proof.Machine
end

