-- ==== Sys2Proof/WellFormed.lean ====
section
/-!
DEFINITION. Which terms of `Instr` stand for a command word: the shift count of `LSHL` and `LSHR` fits its 4-bit field `K`, every
value 0 to 15 being legal (30_encoding.md R93). No other command has an operand of its own.
-/

namespace Sys2Proof

/-- The operands of a command fit their fields (30_encoding.md R93). -/
def Instr.wellFormed : Instr → Bool
  | .lshl k => k < 16
  | .lshr k => k < 16
  | .vdelta1 | .vpsum1 | .vdelta4 | .vundelta4 | .vmaxbits => true
  | .delta1 | .undelta1 | .delta4 | .undelta4 | .prefixsum => true
  | .bpBlocksize | .bpMaxlen | .bpDeclen | .bpEnc | .bpDec => true
  | .svbBlocksize | .svbMaxlen | .svbDeclen | .svbEnc | .svbDec => true
  | .compBlocksize | .compMaxlen | .compDeclen | .compEnc | .compDec => true

end Sys2Proof
end

