-- ==== Sys2Proof/Decode.lean ====
section
/-!
DEFINITION. The command word and its decoder (30_encoding.md R92 to R98): total on every 32-bit word, which is either one row of the
command map or illegal for a named reason; after it the encoder, and the host's `decodeTableWord`.
-/

namespace Sys2Proof

/-- Why a word is no command: the three tests of 30_encoding.md R95, in their order. Each raises `IllegalCommand` (R97). -/
inductive IllegalWord where
  /-- Some bit of `[31:12]` is not zero. -/
  | highBits
  /-- `(UNIT, FUNC)` is no row of the command map. -/
  | reservedRow
  /-- `K` is not zero on a command that is no lane shift. -/
  | strayCount
  deriving DecidableEq, Repr

/-- `FUNC`, bits `[3:0]` (30_encoding.md R92). -/
def fieldFunc (w : Word) : Nat := (w.extractLsb' 0 4).toNat

/-- `UNIT`, bits `[7:4]` (30_encoding.md R92). -/
def fieldUnit (w : Word) : Nat := (w.extractLsb' 4 4).toNat

/-- `K`, bits `[11:8]`, unsigned and used as is (30_encoding.md R92, R93). -/
def fieldK (w : Word) : Nat := (w.extractLsb' 8 4).toNat

/-- Bits `[31:12]`, which must be zero (30_encoding.md R92). -/
def fieldZero (w : Word) : Nat := (w.extractLsb' 12 20).toNat

/-- The rows of the command map, `UNIT` first, then `FUNC`; `none` is a reserved pair (30_encoding.md R94). -/
def commandMap (unit func k : Nat) : Option Instr :=
  match unit, func with
  | 0, 0 => some (.lshl k)
  | 0, 1 => some (.lshr k)
  | 0, 2 => some .vdelta1
  | 0, 3 => some .vpsum1
  | 0, 4 => some .vdelta4
  | 0, 5 => some .vundelta4
  | 0, 6 => some .vmaxbits
  | 1, 0 => some .delta1
  | 1, 1 => some .undelta1
  | 1, 2 => some .delta4
  | 1, 3 => some .undelta4
  | 1, 4 => some .prefixsum
  | 2, 0 => some .bpBlocksize
  | 2, 1 => some .bpMaxlen
  | 2, 2 => some .bpDeclen
  | 2, 3 => some .bpEnc
  | 2, 4 => some .bpDec
  | 3, 0 => some .svbBlocksize
  | 3, 1 => some .svbMaxlen
  | 3, 2 => some .svbDeclen
  | 3, 3 => some .svbEnc
  | 3, 4 => some .svbDec
  | 4, 0 => some .compBlocksize
  | 4, 1 => some .compMaxlen
  | 4, 2 => some .compDeclen
  | 4, 3 => some .compEnc
  | 4, 4 => some .compDec
  | _, _ => none

/-- The commands that take a shift count: `(UNIT, FUNC)` is `(0, 0)` or `(0, 1)` (30_encoding.md R95). -/
def takesCount (unit func : Nat) : Bool := unit == 0 && (func == 0 || func == 1)

/-- Decode of a command word, its three tests in the order of 30_encoding.md R95. -/
def decode (w : Word) : Except IllegalWord Instr :=
  if fieldZero w ≠ 0 then .error .highBits
  else match commandMap (fieldUnit w) (fieldFunc w) (fieldK w) with
    | none => .error .reservedRow
    | some i =>
      if fieldK w ≠ 0 && !takesCount (fieldUnit w) (fieldFunc w) then .error .strayCount
      else .ok i

/-- `w = K*256 + UNIT*16 + FUNC` (30_encoding.md R94). -/
def commandWord (unit func k : Nat) : Word := BitVec.ofNat 32 (k * 256 + unit * 16 + func)

/-- The word of a command (30_encoding.md R94). -/
def encode : Instr → Word
  | .lshl k => commandWord 0 0 k
  | .lshr k => commandWord 0 1 k
  | .vdelta1 => commandWord 0 2 0
  | .vpsum1 => commandWord 0 3 0
  | .vdelta4 => commandWord 0 4 0
  | .vundelta4 => commandWord 0 5 0
  | .vmaxbits => commandWord 0 6 0
  | .delta1 => commandWord 1 0 0
  | .undelta1 => commandWord 1 1 0
  | .delta4 => commandWord 1 2 0
  | .undelta4 => commandWord 1 3 0
  | .prefixsum => commandWord 1 4 0
  | .bpBlocksize => commandWord 2 0 0
  | .bpMaxlen => commandWord 2 1 0
  | .bpDeclen => commandWord 2 2 0
  | .bpEnc => commandWord 2 3 0
  | .bpDec => commandWord 2 4 0
  | .svbBlocksize => commandWord 3 0 0
  | .svbMaxlen => commandWord 3 1 0
  | .svbDeclen => commandWord 3 2 0
  | .svbEnc => commandWord 3 3 0
  | .svbDec => commandWord 3 4 0
  | .compBlocksize => commandWord 4 0 0
  | .compMaxlen => commandWord 4 1 0
  | .compDeclen => commandWord 4 2 0
  | .compEnc => commandWord 4 3 0
  | .compDec => commandWord 4 4 0

/-- The command that the decoder reads from the low `nbits` bits of `w`, the bits above them zero. A command word is the data of a
`WR CMD` transaction, one 32-bit value, so there is no layout in memory to go through (20_memory.md R76, 30_encoding.md R98). -/
def decodeTableWord (nbits w : Nat) : Option Instr :=
  match decode (BitVec.ofNat 32 (w % 2 ^ nbits)) with
  | .ok i => some i
  | .error _ => none

end Sys2Proof
end

