-- ==== Sys2Proof/Machine/Registers.lean ====
section
/-!
DEFINITION. The register space as the host sees it: which register each of the 32 slots is, what reading and writing it does
(10_state.md R22 to R30), and the pseudo-instructions of the notation as lists of transactions (30_encoding.md R99, R100).
-/

namespace Sys2Proof.Machine

/-- The registers of 10_state.md R23. -/
inductive Reg where
  | cmd | status | result | consumed | sticky
  | src | srcLen | dst | dstCap
  | va0 | va1 | va2 | va3
  | vb0 | vb1 | vb2 | vb3
  | vr0 | vr1 | vr2 | vr3
  deriving DecidableEq, Repr

/-- The slot of a register (10_state.md R23). -/
def Reg.slot : Reg → Fin 32
  | .cmd => 0
  | .status => 1
  | .result => 2
  | .consumed => 3
  | .sticky => 4
  | .src => 5
  | .srcLen => 6
  | .dst => 7
  | .dstCap => 8
  | .va0 => 16
  | .va1 => 17
  | .va2 => 18
  | .va3 => 19
  | .vb0 => 20
  | .vb1 => 21
  | .vb2 => 22
  | .vb3 => 23
  | .vr0 => 24
  | .vr1 => 25
  | .vr2 => 26
  | .vr3 => 27

/-- The register of a slot; `none` is a reserved slot, 9 to 15 and 28 to 31 (10_state.md R23). -/
def slotReg (slot : Fin 32) : Option Reg :=
  match slot.val with
  | 0 => some .cmd
  | 1 => some .status
  | 2 => some .result
  | 3 => some .consumed
  | 4 => some .sticky
  | 5 => some .src
  | 6 => some .srcLen
  | 7 => some .dst
  | 8 => some .dstCap
  | 16 => some .va0
  | 17 => some .va1
  | 18 => some .va2
  | 19 => some .va3
  | 20 => some .vb0
  | 21 => some .vb1
  | 22 => some .vb2
  | 23 => some .vb3
  | 24 => some .vr0
  | 25 => some .vr1
  | 26 => some .vr2
  | 27 => some .vr3
  | _ => none

/-- What a register reads as: a narrow one zero-extended (10_state.md R22), the bits of `STATUS` and `STICKY` that always read 0 as 0
(R25, R28; assumption log 12). -/
def readReg (s : State) : Reg → DWord
  | .cmd => zext64 s.cmd
  | .status => zext64 (s.status &&& statusMask)
  | .result => s.result
  | .consumed => s.consumed
  | .sticky => zext64 (s.sticky &&& stickyMask)
  | .src => s.src
  | .srcLen => s.srcLen
  | .dst => s.dst
  | .dstCap => s.dstCap
  | .va0 => zext64 s.va.l0
  | .va1 => zext64 s.va.l1
  | .va2 => zext64 s.va.l2
  | .va3 => zext64 s.va.l3
  | .vb0 => zext64 s.vb.l0
  | .vb1 => zext64 s.vb.l1
  | .vb2 => zext64 s.vb.l2
  | .vb3 => zext64 s.vb.l3
  | .vr0 => zext64 s.vr.l0
  | .vr1 => zext64 s.vr.l1
  | .vr2 => zext64 s.vr.l2
  | .vr3 => zext64 s.vr.l3

/-- What slot `slot` reads as: 0 where it is reserved (10_state.md R22). -/
def readSlot (s : State) (slot : Fin 32) : DWord :=
  match slotReg slot with
  | none => 0
  | some r => readReg s r

/-- The register effect of a write: the low bits are stored, a read-only register ignores it (10_state.md R22, R23), `STICKY` is
write-one-to-clear (R28). The command that a write to `CMD` starts is `runCommand`'s. -/
def writeReg (v : DWord) (s : State) : Reg → State
  | .cmd => { s with cmd := low32 v }
  | .status => s
  | .result => s
  | .consumed => s
  | .sticky => { s with sticky := stickyClear s.sticky (low32 v) }
  | .src => { s with src := v }
  | .srcLen => { s with srcLen := v }
  | .dst => { s with dst := v }
  | .dstCap => { s with dstCap := v }
  | .va0 => { s with va := { s.va with l0 := low32 v } }
  | .va1 => { s with va := { s.va with l1 := low32 v } }
  | .va2 => { s with va := { s.va with l2 := low32 v } }
  | .va3 => { s with va := { s.va with l3 := low32 v } }
  | .vb0 => { s with vb := { s.vb with l0 := low32 v } }
  | .vb1 => { s with vb := { s.vb with l1 := low32 v } }
  | .vb2 => { s with vb := { s.vb with l2 := low32 v } }
  | .vb3 => { s with vb := { s.vb with l3 := low32 v } }
  | .vr0 => s
  | .vr1 => s
  | .vr2 => s
  | .vr3 => s

/-- The register effect of `WR slot, v`: a reserved slot ignores it (10_state.md R22). -/
def writeSlot (slot : Fin 32) (v : DWord) (s : State) : State :=
  match slotReg slot with
  | none => s
  | some r => writeReg v s r

/-- `RD slot` returns the slot's value and has no effect on the engine (10_state.md R22, 30_encoding.md R90). -/
def readTransaction (slot : Fin 32) (s : State) : State := { s with returned := readSlot s slot :: s.returned }

/-- The host's own store of one byte (10_state.md R31, 20_memory.md R73). Assumption log 6. -/
def hostStore (a : DWord) (v : Byte) (s : State) : State := s.storeBytes a.toNat [v]

/-- Reset during the command that `WR CMD, v` started: its writable window becomes unspecified, below the top of the address space,
and every register 0 (70_reset_and_hazards.md R300). Assumption log 5. -/
def abandonCommand (v : DWord) (s : State) : State :=
  match decode (low32 v) with
  | .error _ => s.clearRegisters
  | .ok i =>
    match writableWindow i s with
    | none => s.clearRegisters
    | some w => (s.scribble w.clip).clearRegisters

/-- A bare mnemonic: `WR CMD, <word>` (30_encoding.md R99). -/
def command (i : Instr) : Event := .wr Reg.cmd.slot (zext64 (encode i))

/-- `SETV VA, a, b, c, d` (30_encoding.md R100). -/
def setVa (a b c d : DWord) : List Event :=
  [.wr Reg.va0.slot a, .wr Reg.va1.slot b, .wr Reg.va2.slot c, .wr Reg.va3.slot d]

/-- `SETV VB, a, b, c, d` (30_encoding.md R100). -/
def setVb (a b c d : DWord) : List Event :=
  [.wr Reg.vb0.slot a, .wr Reg.vb1.slot b, .wr Reg.vb2.slot c, .wr Reg.vb3.slot d]

/-- `GETV VR` (30_encoding.md R100). -/
def getVr : List Event := [.rd Reg.vr0.slot, .rd Reg.vr1.slot, .rd Reg.vr2.slot, .rd Reg.vr3.slot]

/-- `SETSRC addr, len` (30_encoding.md R100). -/
def setSrc (addr len : DWord) : List Event := [.wr Reg.src.slot addr, .wr Reg.srcLen.slot len]

/-- `SETDST addr, cap` (30_encoding.md R100). -/
def setDst (addr cap : DWord) : List Event := [.wr Reg.dst.slot addr, .wr Reg.dstCap.slot cap]

/-- `CLRERR` (30_encoding.md R100). -/
def clrErr : List Event := [.wr Reg.sticky.slot 0x1FE]

/-- `MOVV VB, VA`, `va` the values that the four reads return (30_encoding.md R100). -/
def movVbVa (va : Vec) : List Event :=
  [.rd Reg.va0.slot, .rd Reg.va1.slot, .rd Reg.va2.slot, .rd Reg.va3.slot] ++
    setVb (zext64 va.l0) (zext64 va.l1) (zext64 va.l2) (zext64 va.l3)

/-- `MOVV VA, VB`, `vb` the values that the four reads return (30_encoding.md R100). -/
def movVaVb (vb : Vec) : List Event :=
  [.rd Reg.vb0.slot, .rd Reg.vb1.slot, .rd Reg.vb2.slot, .rd Reg.vb3.slot] ++
    setVa (zext64 vb.l0) (zext64 vb.l1) (zext64 vb.l2) (zext64 vb.l3)

end Sys2Proof.Machine
end

