-- ==== Sys2Proof/Machine/Transact.lean ====
section
/-!
DEFINITION. One transaction, whole (30_encoding.md R90, R91, R95; 10_state.md R20): a register access, or a command from decode to
its end.
-/

namespace Sys2Proof.Machine

/-- `WR CMD, v` (10_state.md R24, 30_encoding.md R95): the word is stored first, then decoded and executed; a word that is no command
raises `IllegalCommand` with no other effect (R97). -/
def runCommand (v : DWord) (s : State) : Host.Outcome State Fault Refusal :=
  match decode (low32 v) with
  | .error _ => .next (State.raise .illegalCommand { s with cmd := low32 v })
  | .ok i => exec i { s with cmd := low32 v }

/-- `WR slot, v`: a write to `CMD` executes a command, any other only writes (10_state.md R22, 30_encoding.md R91). -/
def runWrite (slot : Fin 32) (v : DWord) (s : State) : Host.Outcome State Fault Refusal :=
  if slot = Reg.cmd.slot then runCommand v s else .next (writeSlot slot v s)

/-- What one event does. -/
def runEvent (e : Event) (s : State) : Host.Outcome State Fault Refusal :=
  match e with
  | .wr slot v => runWrite slot v s
  | .rd slot => .next (readTransaction slot s)
  | .store a v => .next (hostStore a v s)
  | .reset => .next s.clearRegisters
  | .resetDuring v => .next (abandonCommand v s)

/-- The next event is taken from the front of the host's list; where there is none the engine is idle and nothing changes
(10_state.md R20, 70_reset_and_hazards.md R301). -/
def takeEvent (s : State) : Host.Outcome State Fault Refusal :=
  match s.pending with
  | [] => .next s
  | e :: rest => runEvent e { s with pending := rest }

/-- The transaction that carries the command word whose low `nbits` bits are `w`, the bits above them zero. -/
def wordTransaction (nbits w : Nat) : Event := .wr Reg.cmd.slot (BitVec.ofNat 64 (w % 2 ^ nbits))

end Sys2Proof.Machine
end

