-- ==== Sys2Proof/Machine/Step.lean ====
section
/-!
DEFINITION. One step of the machine: the next transaction of the host, whole (10_state.md R20, R21; 30_encoding.md R91). There is no
instruction fetch from memory (20_memory.md R76).
-/

namespace Sys2Proof.Machine

/-- One step. -/
def step (s : State) : Host.Outcome State Fault Refusal := takeEvent s

/-- `s` with the transaction `WR CMD, w` put first among those the host still sends: the very next step runs that command. It stands
for the host's issuing it (assumption log 1). -/
def State.withFetchWord (s : State) (nbits w : Nat) : State := { s with pending := wordTransaction nbits w :: s.pending }

end Sys2Proof.Machine
end

