-- ==== Sys2Proof/Machine/Vectorised.lean ====
section
/-!
DEFINITION. The vector formulations that the spec gives beside the scalar definitions: the transforms on groups of four (41_transforms.md
R151 to R155), the block codec's (43_block_codec.md R203) and the shuffle-table `SVB` decoder (44_streamvbyte.md R232 to R237). The
scalar definitions are the architecture (00_scope.md R8, R237), so no command calls these; they are for statements of equality.
-/

namespace Sys2Proof.Machine

/-- `DELTA1` by `Delta1V` on `count` full groups, then the scalar tail (41_transforms.md R151). -/
def delta1Vectors : Nat → Vec → List Word → List Word
  | 0, prev, xs => delta1From prev.l3 xs
  | count + 1, prev, xs =>
    Vec.lanes (delta1V (Vec.ofList xs) prev) ++ delta1Vectors count (Vec.ofList xs) (xs.drop 4)

/-- `PREFIXSUM` by `PSum1V` on `count` full groups, then the scalar tail (41_transforms.md R155). -/
def prefixSumVectors : Nat → Vec → List Word → List Word
  | 0, carry, xs => undelta1From carry.l3 xs
  | count + 1, carry, xs =>
    Vec.lanes (psum1V (Vec.ofList xs) carry) ++ prefixSumVectors count (psum1V (Vec.ofList xs) carry) (xs.drop 4)

/-- `DELTA4` by `Delta4V` on `count` full groups, then the scalar tail (41_transforms.md R153, 43_block_codec.md R203). -/
def delta4Vectors : Nat → Vec → List Word → List Word
  | 0, prev, xs => delta4From prev.l0 prev.l1 prev.l2 prev.l3 xs
  | count + 1, prev, xs =>
    Vec.lanes (delta4V (Vec.ofList xs) prev) ++ delta4Vectors count (Vec.ofList xs) (xs.drop 4)

/-- `UNDELTA4` by `Undelta4V` on `count` full groups, then the scalar tail (41_transforms.md R154, 43_block_codec.md R203). -/
def undelta4Vectors : Nat → Vec → List Word → List Word
  | 0, prev, xs => undelta4From prev.l0 prev.l1 prev.l2 prev.l3 xs
  | count + 1, prev, xs =>
    Vec.lanes (undelta4V (Vec.ofList xs) prev) ++ undelta4Vectors count (undelta4V (Vec.ofList xs) prev) (xs.drop 4)

/-- The accumulator of a miniblock: the lane-wise OR of `count` groups of deltas (43_block_codec.md R194, R203). -/
def orGroups : Nat → List Word → Vec
  | 0, _ => Vec.zero
  | count + 1, d => Vec.map2 (· ||| ·) (Vec.ofList d) (orGroups count (d.drop 4))

/-- The width of a miniblock from its accumulator (43_block_codec.md R194, R203). -/
def bpWidthVectors (d : List Word) : Nat := maxBits (orGroups 32 d)

/-- A lane's column of deltas by shift-and-OR (43_block_codec.md R203). -/
def packFieldsOr (b : Nat) : List Word → Nat
  | [] => 0
  | f :: fs => f.toNat ||| (packFieldsOr b fs <<< b)

/-- `len_j` of a key byte (44_streamvbyte.md R233). -/
def keyLen (k j : Nat) : Nat := (k >>> (2 * j)) % 4 + 1

/-- `off_j` of a key byte (44_streamvbyte.md R233). -/
def keyOffset (k : Nat) : Nat → Nat
  | 0 => 0
  | j + 1 => keyOffset k j + keyLen k j

/-- The shuffle table `Shuf[k]`; `none` is `-1` (44_streamvbyte.md R233). -/
def shufTable (k i : Nat) : Option Nat :=
  if i % 4 < keyLen k (i / 4) then some (keyOffset k (i / 4) + i % 4) else none

/-- The length table `Len[k]` (44_streamvbyte.md R234). -/
def lenTable (k : Nat) : Nat := 4 + k % 4 + (k >>> 2) % 4 + (k >>> 4) % 4 + (k >>> 6) % 4

/-- The four zero-extended deltas of key byte `k` from the 16 data bytes at the cursor (44_streamvbyte.md R233, R235). -/
def shuffle (data : List Byte) (k : Nat) : Vec := gather (Vec.ofBytes fun i => data.getD i 0) (shufTable k)

/-- One key byte, four values: the general path where 16 bytes are readable, else the scalar loop (44_streamvbyte.md R235, R237). -/
def svbKeyStep (k : Byte) (prev : Word) (data : List Byte) : Option (List Word × Nat) :=
  if 16 ≤ data.length then
    some (Vec.lanes (psum1V (shuffle data k.toNat) (Vec.splat prev)), lenTable k.toNat)
  else svbValues [k] 4 0 prev data

/-- The key bytes of a group one after another, carry and cursor threaded through (44_streamvbyte.md R235). -/
def svbKeySteps : List Byte → Word → List Byte → Option (List Word × Nat)
  | [], _, _ => some ([], 0)
  | k :: ks, prev, data =>
    match svbKeyStep k prev data with
    | none => none
    | some (ys, used) =>
      match svbKeySteps ks (ys.getLastD prev) (data.drop used) with
      | none => none
      | some (zs, more) => some (ys ++ zs, used + more)

/-- Four data bytes widened to 16 and then to 32 bits (44_streamvbyte.md R236). -/
def widen (data : List Byte) : Vec := Vec.ofList ((data.take 4).map fun b => (b.setWidth 16).setWidth 32)

/-- `count` batches of 8 one-byte deltas, each two vectors (44_streamvbyte.md R236). -/
def svbFastBatches : Nat → Vec → List Byte → List Word
  | 0, _, _ => []
  | count + 1, carry, data =>
    Vec.lanes (psum1V (widen data) carry) ++
      Vec.lanes (psum1V (widen (data.drop 4)) (psum1V (widen data) carry)) ++
      svbFastBatches count (psum1V (widen (data.drop 4)) (psum1V (widen data) carry)) (data.drop 8)

/-- A group of 32 values, 8 key bytes: the fast path where all are zero and 32 bytes are readable (44_streamvbyte.md R236, R237). -/
def svbGroup (keys : List Byte) (prev : Word) (data : List Byte) : Option (List Word × Nat) :=
  if keys.all (· == 0) && 32 ≤ data.length then some (svbFastBatches 4 (Vec.splat prev) data, 32)
  else svbKeySteps keys prev data

/-- `count` full groups, then `tail` values by the scalar loop, with one carry and one cursor (44_streamvbyte.md R232). -/
def svbGroups : Nat → Nat → List Byte → Word → List Byte → Option (List Word × Nat)
  | 0, tail, keys, prev, data => svbValues keys tail 0 prev data
  | count + 1, tail, keys, prev, data =>
    match svbGroup (keys.take 8) prev data with
    | none => none
    | some (ys, used) =>
      match svbGroups count tail (keys.drop 8) (ys.getLastD prev) (data.drop used) with
      | none => none
      | some (zs, more) => some (ys ++ zs, used + more)

/-- The vectorised decoder (44_streamvbyte.md R232 to R237). -/
def svbDecodeVectors (s : List Byte) (cap : Nat) : Option (List Word × Nat) :=
  if s.length < 4 then none
  else if cap < (u32at s 0).toNat then none
  else if s.length < 4 + ceilDiv (u32at s 0).toNat 4 then none
  else match svbGroups ((u32at s 0).toNat / 32) ((u32at s 0).toNat % 32)
      ((s.drop 4).take (ceilDiv (u32at s 0).toNat 4)) 0 (s.drop (4 + ceilDiv (u32at s 0).toNat 4)) with
    | none => none
    | some (ys, used) => some (ys, 4 + ceilDiv (u32at s 0).toNat 4 + used)

end Sys2Proof.Machine
end

