-- ==== Sys2Proof/Safety.lean ====
section
/-!
DEFINITION. What a good state and a good run are, in the terms claims use: the invariant that every step keeps, and how the host tells
that no fault was recorded (10_state.md R25, R28).
-/

namespace Sys2Proof.Machine

/-- `STATUS` holds what 10_state.md R25 allows: bits 7..2 and 31..16 are 0, `ERR = 1` exactly where `CAUSE` is not 0, `ERR` only with
`DONE`, and `CAUSE` one of the numbers a command can raise (60_exceptions.md R270, R272). -/
def statusLegal (w : Word) : Bool :=
  w &&& ~~~statusMask == 0 && statusErr w == (statusCause w != 0) && (!statusErr w || statusDone w) &&
    statusCause w ≤ 8 && statusCause w != 2

/-- `STICKY` holds what 10_state.md R28 allows: bits 0, 2 and 31..9 are 0. -/
def stickyLegal (w : Word) : Bool := w &&& ~~~stickyMask == 0 && !w.getLsbD 2

/-- The invariant: memory is in its canonical form and within the address space, `STATUS` and `STICKY` are legal. -/
abbrev Inv (s : State) : Prop :=
  s.mem.wf ∧ s.mem.inSpace ∧ statusLegal s.status = true ∧ stickyLegal s.sticky = true

/-- No fault is recorded since `STICKY` was cleared (10_state.md R28). -/
def noFaultRecorded (s : State) : Bool := s.sticky &&& stickyMask == 0

/-- The most recent command succeeded (10_state.md R25). -/
def lastCommandSucceeded (s : State) : Bool := s.status == statusSuccess

end Sys2Proof.Machine
end

