-- ==== Sys2Proof/Certificates/Slice0/Obligations.lean ====
section
/-!
DEFINITION. The statements for the provers, each `def Obligations.<Name> : Prop`, and before them the few terms they share, written
from the rules and not from the meanings.
-/

namespace Sys2Proof.Claims

open Sys2Proof.Machine

/-- A window that does not run past the top of the address space (20_memory.md R70 (a)). One that ends exactly there fits, 2^62 elements
at address 0 among them (assumption log 21). -/
abbrev Fits (w : Window) : Prop := w.base + w.size ≤ 2 ^ 64

/-- Every byte of a window is accessible (20_memory.md R70 (c)). -/
abbrev AllAccessible (s : State) (w : Window) : Prop := ∀ a, w.covers a = true → accessible s.holes a = true

/-- Some byte of a window is not accessible (20_memory.md R70 (c)). -/
abbrev SomeInaccessible (s : State) (w : Window) : Prop := ∃ a, w.covers a = true ∧ accessible s.holes a = false

/-- Two windows share no byte (20_memory.md R70 (b)). -/
abbrev Apart (v w : Window) : Prop := ∀ a, v.covers a = true → w.covers a = false

/-- Two windows share a byte (20_memory.md R70 (b)). -/
abbrev Share (v w : Window) : Prop := ∃ a, v.covers a = true ∧ w.covers a = true

/-- The state after fault entry with cause number `c` (60_exceptions.md R280). -/
abbrev faulted (c : Nat) (s : State) : State :=
  { s with
    result := 0
    consumed := 0
    status := BitVec.ofNat 32 (0x00000003 + 256 * c)
    sticky := s.sticky ||| ((1 : Word) <<< c) }

/-- Element `i` of the source buffer (20_memory.md R62). -/
abbrev element (s : State) (i : Nat) : Word := s.mem.readU32 (s.src.toNat + 4 * i)

/-- The source buffer as elements: `[ MemReadU32(SRC + 4i) for i in 0..n-1 ]` (42_codec_contract.md R181). -/
abbrev elements (s : State) : List Word := (List.range s.srcLen.toNat).map (element s)

/-- The source window as bytes: `MemRead(SRC, L)` (42_codec_contract.md R182). -/
abbrev stream (s : State) : List Byte := (List.range s.srcLen.toNat).map fun i => s.mem.read (s.src.toNat + i)

/-- Memory of `t` is that of `s` outside `[base, base + size)`, address by address. -/
abbrev SameOutside (base size : Nat) (s t : State) : Prop :=
  ∀ a, a < base ∨ base + size ≤ a → t.mem.read a = s.mem.read a

/-- Byte `i` of a vector: bits `[8*(i mod 4)+7 : 8*(i mod 4)]` of lane `floor(i/4)` (10_state.md R30). -/
abbrev byteOf (v : Vec) (i : Nat) : Byte := ([v.l0, v.l1, v.l2, v.l3].getD (i / 4) 0).extractLsb' (8 * (i % 4)) 8

/-- A transform succeeds (41_transforms.md R150): `value t i` is what element `i` becomes, and nothing else of the state changes. -/
abbrev TransformWrites (i : Instr) (value : State → Nat → Word) (s : State) : Prop :=
  ∃ t, exec i s = .next t ∧
    t = { s with mem := t.mem, result := s.srcLen, consumed := s.srcLen, status := 0x00000001 } ∧
    (∀ j < s.srcLen.toNat, element t j = value t j) ∧ SameOutside s.src.toNat (4 * s.srcLen.toNat) s t

/-- The operands with which a transform completes (41_transforms.md R150). -/
abbrev TransformReady (s : State) : Prop := Fits s.srcElements ∧ AllAccessible s s.srcElements

/-- The operands with which an `ENC` completes, but for its length and capacity checks (42_codec_contract.md R181). -/
abbrev EncReady (s : State) : Prop :=
  s.srcLen.toNat < 2 ^ 32 ∧ Fits s.srcElements ∧ Fits s.dstBytes ∧ Apart s.srcElements s.dstBytes ∧
    AllAccessible s s.srcElements ∧ AllAccessible s s.dstBytes

/-- An `ENC` succeeds with output `out` (42_codec_contract.md R181, 20_memory.md R68). -/
abbrev EncWrites (i : Instr) (out : List Byte) (s : State) : Prop :=
  ∃ t, exec i s = .next t ∧
    t = { s with mem := t.mem, result := BitVec.ofNat 64 out.length, consumed := s.srcLen, status := 0x00000001 } ∧
    out.length ≤ s.dstCap.toNat ∧ (∀ j < out.length, t.mem.read (s.dst.toNat + j) = out.getD j 0) ∧
    SameOutside s.dst.toNat out.length s t

/-- The checks of an `ENC` in their order, for a codec of block size `block`, bound `bound` and extra range `range`: each one's cause
where it fails and those before it hold (42_codec_contract.md R181, 60_exceptions.md R276). -/
abbrev EncChecks (i : Instr) (block : Nat) (bound : Nat → Nat) (range : Nat → Prop) (s : State) : Prop :=
  (2 ^ 32 ≤ s.srcLen.toNat ∨ ¬range s.srcLen.toNat ∨ ¬Fits s.srcElements ∨ ¬Fits s.dstBytes →
    exec i s = .next (faulted 5 s)) ∧
  (s.srcLen.toNat < 2 ^ 32 → range s.srcLen.toNat → Fits s.srcElements → Fits s.dstBytes →
    (s.srcLen.toNat % block ≠ 0 → exec i s = .next (faulted 1 s)) ∧
    (s.srcLen.toNat % block = 0 →
      (s.dstCap.toNat < bound s.srcLen.toNat → exec i s = .next (faulted 6 s)) ∧
      (bound s.srcLen.toNat ≤ s.dstCap.toNat →
        (Share s.srcElements s.dstBytes → exec i s = .next (faulted 7 s)) ∧
        (Apart s.srcElements s.dstBytes →
          SomeInaccessible s s.srcElements ∨ SomeInaccessible s s.dstBytes → exec i s = .next (faulted 8 s)))))

/-- The operands with which a `DEC` reads its stream (42_codec_contract.md R182). -/
abbrev DecReady (s : State) : Prop :=
  Fits s.srcBytes ∧ Fits s.dstElements ∧ Apart s.srcBytes s.dstElements ∧
    AllAccessible s s.srcBytes ∧ AllAccessible s s.dstElements

/-- A `DEC` succeeds with values `ys`, having used `used` bytes (42_codec_contract.md R182, 20_memory.md R68). -/
abbrev DecWrites (i : Instr) (ys : List Word) (used : Nat) (s : State) : Prop :=
  ∃ t, exec i s = .next t ∧
    t = { s with
      mem := t.mem, result := BitVec.ofNat 64 ys.length, consumed := BitVec.ofNat 64 used, status := 0x00000001 } ∧
    ys.length ≤ s.dstCap.toNat ∧ (∀ j < ys.length, t.mem.readU32 (s.dst.toNat + 4 * j) = ys.getD j 0) ∧
    SameOutside s.dst.toNat (4 * ys.length) s t

/-- A `DEC` whose stream does not decode: fault entry with cause 3, every byte of `DW` a fresh free value, every other byte as before
(42_codec_contract.md R182, 20_memory.md R69). -/
abbrev DecTruncated (i : Instr) (s : State) : Prop :=
  ∃ t, exec i s = .next t ∧
    t = { faulted 3 s with mem := t.mem, draws := s.draws + 4 * s.dstCap.toNat } ∧
    (∀ j < 4 * s.dstCap.toNat, t.mem.read (s.dst.toNat + j) = Config.freeByte (s.draws + j)) ∧
    SameOutside s.dst.toNat (4 * s.dstCap.toNat) s t

/-- `BP_MaxLen` (43_block_codec.md R191). -/
abbrev bpBound (n : Nat) : Nat := 4 + 16 * (((n + 127) / 128 + 15) / 16) + 512 * ((n + 127) / 128)

/-- `SVB_MaxLen` (44_streamvbyte.md R221). -/
abbrev svbBound (n : Nat) : Nat := 4 + (n + 3) / 4 + 4 * n

/-- `COMP_MaxLen` (45_composite.md R251). -/
abbrev compBound (n : Nat) : Nat := 4 + bpBound (128 * (n / 128)) + svbBound (n % 128)

/-- The deltas of miniblock `k` of an input (43_block_codec.md R193). -/
abbrev block (x : List Word) (k : Nat) : List Word := ((delta4 x).drop (128 * k)).take 128

/-- The width of miniblock `k` of an input (43_block_codec.md R194). -/
abbrev blockWidth (x : List Word) (k : Nat) : Nat := bits32 (orAll (block x k))

/-- The bytes of packed data in miniblocks `0 .. k-1`, `w` their widths (30_encoding.md R106). -/
abbrev bpDataBytes (w : Nat → Nat) (k : Nat) : Nat := 16 * ((List.range k).map w).sum

/-- Where superblock `g` begins in a `BP` stream: every superblock before it is full (30_encoding.md R102, R103). -/
abbrev bpHeaderAt (w : Nat → Nat) (g : Nat) : Nat := 4 + 16 * g + bpDataBytes w (16 * g)

/-- Where the width byte of slot `q` of superblock `g` lies: the first of four in the most significant byte of a little-endian word
(30_encoding.md R103). -/
abbrev bpWidthAt (w : Nat → Nat) (g q : Nat) : Nat := bpHeaderAt w g + 4 * (q / 4) + (3 - q % 4)

/-- Where the packed data of miniblock `k` of `m` begins: behind the header of its superblock, of `ceil(r/4)` words, and the miniblocks
before it (30_encoding.md R103, R104). -/
abbrev bpDataAt (w : Nat → Nat) (m k : Nat) : Nat :=
  4 + 16 * (k / 16) + 4 * ((min 16 (m - 16 * (k / 16)) + 3) / 4) + bpDataBytes w k

/-- The length of a `BP` stream of `m` miniblocks (30_encoding.md R106). -/
abbrev bpTotal (w : Nat → Nat) (m : Nat) : Nat := 4 + (16 * (m / 16) + 4 * ((m % 16 + 3) / 4)) + bpDataBytes w m

/-- `BP_Decode(s, cap)` returns `(ys, used)` (43_block_codec.md R198): every width byte in a used slot is at most 32, whatever the
deltas need, nothing else of a header is looked at, the stream ends with its last miniblock, and the values are `Undelta4` of the
unpacked miniblocks. -/
abbrev BpDecodes (s : List Byte) (cap : Nat) (ys : List Word) (used : Nat) : Prop :=
  4 ≤ s.length ∧ used = s.length ∧ ∃ (m : Nat) (w : Nat → Nat),
    (u32at s 0).toNat = 128 * m ∧ 128 * m ≤ cap ∧
    (∀ k < m, w k ≤ 32 ∧ (s.getD (bpWidthAt w (k / 16) (k % 16)) 0).toNat = w k) ∧
    s.length = bpTotal w m ∧
    ys = undelta4 ((List.range m).flatMap fun k =>
      unpack ((List.range (4 * w k)).map fun t => u32at s (bpDataAt w m k + 4 * t)) (w k))

/-- The control code of value `i` in an `SVB` stream (30_encoding.md R108). -/
abbrev codeAt (s : List Byte) (i : Nat) : Nat := (s.getD (4 + i / 4) 0).toNat / 4 ^ (i % 4) % 4

/-- Where record `i` of an `SVB` stream of `n` values begins; for `i = n`, where the last one ends (30_encoding.md R107, R109). -/
abbrev recordAt (s : List Byte) (n i : Nat) : Nat := 4 + (n + 3) / 4 + ((List.range i).map fun l => codeAt s l + 1).sum

/-- `SVB_Decode(s, cap)` returns `(ys, used)` (44_streamvbyte.md R228): the stream holds the last record whole, the values
are the running sums of the zero-extended records, and what is used ends with the last record. -/
abbrev SvbDecodes (s : List Byte) (cap : Nat) (ys : List Word) (used : Nat) : Prop :=
  4 ≤ s.length ∧ ∃ n : Nat, (u32at s 0).toNat = n ∧ n ≤ cap ∧ used = recordAt s n n ∧ used ≤ s.length ∧
    ys = undelta1 ((List.range n).map fun i => BitVec.ofNat 32 (uat s (recordAt s n i) (codeAt s i + 1)))

/-- `COMP_Decode(s, cap)` returns `(ys, used)` (45_composite.md R252, R256): `BP_Decode` of the bulk slice, which must use all of it,
then `SVB_Decode` of all that follows with the room that is left, which need not. -/
abbrev CompDecodes (s : List Byte) (cap : Nat) (ys : List Word) (used : Nat) : Prop :=
  ∃ (bl : Nat) (ya yz : List Word) (cz : Nat),
    4 ≤ s.length ∧ bl = (u32at s 0).toNat ∧ 4 + bl ≤ s.length ∧
    bpDecode ((s.drop 4).take bl) cap = some (ya, bl) ∧ svbDecode (s.drop (4 + bl)) (cap - ya.length) = some (yz, cz) ∧
    ys = ya ++ yz ∧ used = 4 + bl + cz

/-- The causes each command can raise, the rows of 60_exceptions.md R285. -/
def causes : Instr → List Nat
  | .lshl _ | .lshr _ | .vdelta1 | .vpsum1 | .vdelta4 | .vundelta4 | .vmaxbits => []
  | .delta1 | .undelta1 | .delta4 | .undelta4 | .prefixsum => [5, 8]
  | .bpBlocksize | .svbBlocksize | .compBlocksize => []
  | .bpMaxlen | .svbMaxlen | .compMaxlen => [5]
  | .bpDeclen | .svbDeclen | .compDeclen => [3, 5, 8]
  | .bpEnc => [1, 5, 6, 7, 8]
  | .svbEnc | .compEnc => [5, 6, 7, 8]
  | .bpDec | .svbDec | .compDec => [3, 5, 7, 8]

end Sys2Proof.Claims

open Sys2Proof Sys2Proof.Machine Sys2Proof.Claims

/-! ### Encoding -/

/-- Decoding the word of a well-formed command gives the command back (30_encoding.md R94, R95). -/
def Obligations.DecodeOfEncode : Prop := ∀ i : Instr, i.wellFormed = true → decode (encode i) = .ok i

/-- A word that decodes is the word of the command it decodes to, and that command is well formed (30_encoding.md R94, R95). -/
def Obligations.EncodeOfDecode : Prop :=
  ∀ (w : Word) (i : Instr), decode w = .ok i → i.wellFormed = true ∧ encode i = w

/-- Which words are legal: bits 31..12 zero, `(UNIT, FUNC)` a row, and `K` zero but for the two lane shifts (30_encoding.md R92, R94,
R95). -/
def Obligations.LegalWords : Prop :=
  ∀ w : Word, (∃ i, decode w = .ok i) ↔
    w.toNat / 4096 = 0 ∧
    (w.toNat / 16 % 16 = 0 ∧ w.toNat % 16 ≤ 6 ∨ w.toNat / 16 % 16 = 1 ∧ w.toNat % 16 ≤ 4 ∨
      (w.toNat / 16 % 16 = 2 ∨ w.toNat / 16 % 16 = 3 ∨ w.toNat / 16 % 16 = 4) ∧ w.toNat % 16 ≤ 4) ∧
    (w.toNat / 256 % 16 = 0 ∨ w.toNat / 16 % 16 = 0 ∧ w.toNat % 16 ≤ 1)

/-- A few words written out from the command map decode to their commands (30_encoding.md R94). -/
def Obligations.WordsOfTheMapDecode : Prop :=
  decode 0x00000F00 = .ok (.lshl 15) ∧ decode 0x00000501 = .ok (.lshr 5) ∧ decode 0x00000006 = .ok .vmaxbits ∧
  decode 0x00000014 = .ok .prefixsum ∧ decode 0x00000023 = .ok .bpEnc ∧ decode 0x00000034 = .ok .svbDec ∧
  decode 0x00000042 = .ok .compDeclen

/-! ### Steps -/

/-- Where the next transaction writes a word to `CMD` that decodes to a well-formed command, the step stores the word in `CMD` and is
then exactly that command's execution (10_state.md R24, 30_encoding.md R91, R95). -/
def Obligations.StepRunsDecodedCommand : Prop :=
  ∀ (s : State) (v : DWord) (rest : List Event) (i : Instr),
    s.pending = .wr 0 v :: rest → decode (v.setWidth 32) = .ok i → i.wellFormed = true →
    step s = exec i { s with pending := rest, cmd := v.setWidth 32 }

/-- A word that is no command raises `IllegalCommand`: the word is in `CMD`, fault entry with cause 4, nothing else changes
(30_encoding.md R97). -/
def Obligations.IllegalWordRaisesIllegalCommand : Prop :=
  ∀ (s : State) (v : DWord) (rest : List Event),
    s.pending = .wr 0 v :: rest → (∀ i, i.wellFormed = true → encode i ≠ v.setWidth 32) →
    step s = .next (faulted 4 { s with pending := rest, cmd := v.setWidth 32 })

/-- A write to a slot other than `CMD`: holding registers and vector operands take the value, narrow ones its low 32 bits, `STICKY` is
write-one-to-clear in bits 1 to 8, read-only and reserved slots ignore it, and nothing else changes (10_state.md R22, R23, R28 to
R30). -/
def Obligations.RegisterWriteStoresOnlyItsRegister : Prop :=
  ∀ (s : State) (slot : Fin 32) (v : DWord) (rest : List Event),
    s.pending = .wr slot v :: rest → slot ≠ 0 →
    step s = .next { s with
      pending := rest
      sticky := if slot = 4 then s.sticky &&& ~~~(v.setWidth 32 &&& 0x1FE) else s.sticky
      src := if slot = 5 then v else s.src
      srcLen := if slot = 6 then v else s.srcLen
      dst := if slot = 7 then v else s.dst
      dstCap := if slot = 8 then v else s.dstCap
      va := ⟨if slot = 16 then v.setWidth 32 else s.va.l0, if slot = 17 then v.setWidth 32 else s.va.l1,
        if slot = 18 then v.setWidth 32 else s.va.l2, if slot = 19 then v.setWidth 32 else s.va.l3⟩
      vb := ⟨if slot = 20 then v.setWidth 32 else s.vb.l0, if slot = 21 then v.setWidth 32 else s.vb.l1,
        if slot = 22 then v.setWidth 32 else s.vb.l2, if slot = 23 then v.setWidth 32 else s.vb.l3⟩ }

/-- `RD slot` returns the slot's value, a narrow register zero-extended and a reserved slot 0, and changes nothing of the engine
(10_state.md R22, R23). That the value goes to the front of `returned` is the model's choice (assumption log 7). -/
def Obligations.RegisterReadReturnsItsRegister : Prop :=
  ∀ (s : State) (slot : Fin 32) (rest : List Event), s.pending = .rd slot :: rest → Inv s →
    ∃ v : DWord, step s = .next { s with pending := rest, returned := v :: s.returned } ∧
      (slot = 0 → v = s.cmd.setWidth 64) ∧ (slot = 1 → v = s.status.setWidth 64) ∧ (slot = 2 → v = s.result) ∧
      (slot = 3 → v = s.consumed) ∧ (slot = 4 → v = s.sticky.setWidth 64) ∧ (slot = 5 → v = s.src) ∧
      (slot = 6 → v = s.srcLen) ∧ (slot = 7 → v = s.dst) ∧ (slot = 8 → v = s.dstCap) ∧
      (slot = 16 → v = s.va.l0.setWidth 64) ∧ (slot = 17 → v = s.va.l1.setWidth 64) ∧
      (slot = 18 → v = s.va.l2.setWidth 64) ∧ (slot = 19 → v = s.va.l3.setWidth 64) ∧
      (slot = 20 → v = s.vb.l0.setWidth 64) ∧ (slot = 21 → v = s.vb.l1.setWidth 64) ∧
      (slot = 22 → v = s.vb.l2.setWidth 64) ∧ (slot = 23 → v = s.vb.l3.setWidth 64) ∧
      (slot = 24 → v = s.vr.l0.setWidth 64) ∧ (slot = 25 → v = s.vr.l1.setWidth 64) ∧
      (slot = 26 → v = s.vr.l2.setWidth 64) ∧ (slot = 27 → v = s.vr.l3.setWidth 64) ∧
      ((9 ≤ slot.val ∧ slot.val ≤ 15) ∨ 28 ≤ slot.val → v = 0)

/-- With nothing sent the engine is idle, and the host's own store changes that one byte of memory (10_state.md R20, R31; that a step
then leaves the state as it is, and that the host's stores are events, are the model's choices, assumption logs 1 and 6). -/
def Obligations.IdleAndHostStore : Prop :=
  (∀ s : State, s.pending = [] → step s = .next s) ∧
  (∀ (s : State) (a : DWord) (b : Byte) (rest : List Event), s.pending = .store a b :: rest →
    ∃ t, step s = .next t ∧ t = { s with pending := rest, mem := t.mem } ∧ t.mem.read a.toNat = b ∧
      SameOutside a.toNat 1 s t)

/-- No step stops: every transaction is accepted and answered in every state (10_state.md R22, 60_exceptions.md R282, R292). -/
def Obligations.EveryStepCompletes : Prop := ∀ s : State, ∃ t, step s = .next t

/-! ### Reset -/

/-- Reset puts every register to 0 and does not touch memory, and in the state after reset every slot reads 0 and `DONE`, `ERR` and
`CAUSE` are 0 (70_reset_and_hazards.md R300, 10_state.md R36). That what the host still sends and has
been returned, the platform and the count of draws stay is the model's choice (assumption log 5). -/
def Obligations.ResetClearsEveryRegister : Prop :=
  (∀ slot, readSlot State.reset slot = 0) ∧ statusDone State.reset.status = false ∧
  statusErr State.reset.status = false ∧ statusCause State.reset.status = 0 ∧
  ∀ (s : State) (rest : List Event), s.pending = .reset :: rest →
    ∃ t, step s = .next t ∧ (∀ slot, readSlot t slot = 0) ∧
      t = { s with
        pending := rest, cmd := 0, status := 0, result := 0, consumed := 0, sticky := 0, src := 0, srcLen := 0, dst := 0
        dstCap := 0, va := ⟨0, 0, 0, 0⟩, vb := ⟨0, 0, 0, 0⟩, vr := ⟨0, 0, 0, 0⟩ }

/-- A reset during a command: every register is 0, every byte of the command's writable window below the top of the address space is a
free value, and every other byte is as before (70_reset_and_hazards.md R300). The clipping is the model's choice (assumption log 5), and
so is the form of the free value, `Config.freeByte` of a fresh draw for each byte (assumption log 4). -/
def Obligations.ResetDuringCommandLeavesItsWindowFree : Prop :=
  ∀ (s : State) (v : DWord) (rest : List Event), s.pending = .resetDuring v :: rest →
    ∃ t, step s = .next t ∧ (∀ slot, readSlot t slot = 0) ∧
      t = { s with
        pending := rest, cmd := 0, status := 0, result := 0, consumed := 0, sticky := 0, src := 0, srcLen := 0, dst := 0
        dstCap := 0, va := ⟨0, 0, 0, 0⟩, vb := ⟨0, 0, 0, 0⟩, vr := ⟨0, 0, 0, 0⟩, mem := t.mem, draws := t.draws } ∧
      (∀ a, (∀ i w, decode (v.setWidth 32) = .ok i → writableWindow i s = some w → w.covers a = false) →
        t.mem.read a = s.mem.read a) ∧
      (∀ i w a, decode (v.setWidth 32) = .ok i → writableWindow i s = some w → w.covers a = true → a < 2 ^ 64 →
        t.mem.read a = Config.freeByte (s.draws + (a - w.base)))

/-! ### Ends of a command -/

/-- Every command ends by success (`STATUS = 1`, `STICKY` unchanged) or by fault entry with a cause among 1, 3, 5, 6, 7, 8, which
changes nothing else but, for cause 3, memory (30_encoding.md R96, 60_exceptions.md R280, 20_memory.md R69). -/
def Obligations.EveryCommandSucceedsOrTakesFaultEntry : Prop :=
  ∀ (i : Instr) (s : State), ∃ t, exec i s = .next t ∧
    (t.status = 0x00000001 ∧ t.sticky = s.sticky ∨
      ∃ c ∈ [1, 3, 5, 6, 7, 8], t = { faulted c s with mem := t.mem, draws := t.draws } ∧
        (c ≠ 3 → t.mem = s.mem ∧ t.draws = s.draws))

/-- Which command can raise which cause, both ways: the table of 60_exceptions.md R285. -/
def Obligations.CausesRaisedAreThoseOfTheTable : Prop :=
  ∀ i : Instr, ∀ c ∈ [1, 2, 3, 4, 5, 6, 7, 8],
    c ∈ causes i ↔ ∃ s t, exec i s = .next t ∧ t.status = BitVec.ofNat 32 (0x00000003 + 256 * c)

/-- No command writes `CMD`, an operand register, a vector operand, or what the model adds but for the draws; and `VR` is written only
by the six vector commands that have it as result (10_state.md R23, R29, R30). -/
def Obligations.CommandsKeepOperandRegisters : Prop :=
  ∀ (i : Instr) (s t : State), exec i s = .next t →
    t.cmd = s.cmd ∧ t.src = s.src ∧ t.srcLen = s.srcLen ∧ t.dst = s.dst ∧ t.dstCap = s.dstCap ∧ t.va = s.va ∧ t.vb = s.vb ∧
    t.holes = s.holes ∧ t.pending = s.pending ∧ t.returned = s.returned ∧
    ((∀ k, i ≠ .lshl k ∧ i ≠ .lshr k) → i ∉ [.vdelta1, .vpsum1, .vdelta4, .vundelta4] → t.vr = s.vr)

/-- A command's behaviour never depends on the outcome of an earlier one: not on `STATUS`, `RESULT` or `CONSUMED`, and `STICKY` only
gains a bit that does not depend on what it held (10_state.md R32, 60_exceptions.md R282). -/
def Obligations.CommandsIgnoreEarlierOutcomes : Prop :=
  ∀ (i : Instr) (s : State) (status : Word) (result consumed : DWord),
    exec i { s with status := status, result := result, consumed := consumed } = exec i s ∧
    ∃ (t : State) (gained : Word), ∀ sticky : Word,
      exec i { s with sticky := sticky } = .next { t with sticky := sticky ||| gained }

/-- Every byte of memory outside the writable window is as before, whether the command succeeds or faults (20_memory.md R67). -/
def Obligations.WritesStayInTheWindow : Prop :=
  ∀ (i : Instr) (s t : State), exec i s = .next t →
    (i ∈ [.bpEnc, .svbEnc, .compEnc] → SameOutside s.dst.toNat s.dstCap.toNat s t) ∧
    (i ∈ [.bpDec, .svbDec, .compDec] → SameOutside s.dst.toNat (4 * s.dstCap.toNat) s t) ∧
    (i ∈ [.delta1, .undelta1, .delta4, .undelta4, .prefixsum] → SameOutside s.src.toNat (4 * s.srcLen.toNat) s t) ∧
    (i ∉ [.bpEnc, .svbEnc, .compEnc, .bpDec, .svbDec, .compDec, .delta1, .undelta1, .delta4, .undelta4, .prefixsum] →
      t.mem = s.mem)

/-- A command reads only its source window: memories that agree there give the same registers, and at every address either the same
byte afterwards or what each held before (20_memory.md R67). -/
def Obligations.ReadsStayInTheWindow : Prop :=
  ∀ (i : Instr) (s : State) (m : Memory),
    (∀ w a, sourceWindow i s = some w → w.covers a = true → m.read a = s.mem.read a) →
    ∃ t u, exec i s = .next t ∧ exec i { s with mem := m } = .next u ∧ u = { t with mem := u.mem } ∧
      ∀ a, u.mem.read a = t.mem.read a ∨ (u.mem.read a = m.read a ∧ t.mem.read a = s.mem.read a)

/-! ### Vector commands -/

/-- `LSHL k` for every `k` in 0..15: byte `i` of `VR` is byte `i - k` of `VA`, or 0 where `i < k`; `RESULT` and `CONSUMED` 0, nothing
else changes (40_lane_primitives.md R130, R131). -/
def Obligations.LshlShiftsBytesUp : Prop :=
  ∀ (k : Nat) (s : State), k < 16 → ∃ v,
    exec (.lshl k) s = .next { s with vr := v, result := 0, consumed := 0, status := 0x00000001 } ∧
    ∀ i < 16, byteOf v i = if k ≤ i then byteOf s.va (i - k) else 0

/-- `LSHR k` for every `k` in 0..15: byte `i` of `VR` is byte `i + k` of `VA`, or 0 where `i + k > 15`; `RESULT` and `CONSUMED` 0,
nothing else changes (40_lane_primitives.md R130, R132). -/
def Obligations.LshrShiftsBytesDown : Prop :=
  ∀ (k : Nat) (s : State), k < 16 → ∃ v,
    exec (.lshr k) s = .next { s with vr := v, result := 0, consumed := 0, status := 0x00000001 } ∧
    ∀ i < 16, byteOf v i = if i + k ≤ 15 then byteOf s.va (i + k) else 0

/-- The results of the four lane-wise vector commands, with all they leave unchanged (40_lane_primitives.md R134 to R137). -/
def Obligations.VectorDifferencesAndSums : Prop :=
  ∀ s : State,
    exec .vdelta1 s = .next { s with
      vr := ⟨s.va.l0 - s.vb.l3, s.va.l1 - s.va.l0, s.va.l2 - s.va.l1, s.va.l3 - s.va.l2⟩
      result := 0, consumed := 0, status := 0x00000001 } ∧
    exec .vpsum1 s = .next { s with
      vr := ⟨s.vb.l3 + s.va.l0, s.vb.l3 + s.va.l0 + s.va.l1, s.vb.l3 + s.va.l0 + s.va.l1 + s.va.l2,
        s.vb.l3 + s.va.l0 + s.va.l1 + s.va.l2 + s.va.l3⟩
      result := 0, consumed := 0, status := 0x00000001 } ∧
    exec .vdelta4 s = .next { s with
      vr := ⟨s.va.l0 - s.vb.l0, s.va.l1 - s.vb.l1, s.va.l2 - s.vb.l2, s.va.l3 - s.vb.l3⟩
      result := 0, consumed := 0, status := 0x00000001 } ∧
    exec .vundelta4 s = .next { s with
      vr := ⟨s.va.l0 + s.vb.l0, s.va.l1 + s.vb.l1, s.va.l2 + s.vb.l2, s.va.l3 + s.vb.l3⟩
      result := 0, consumed := 0, status := 0x00000001 }

/-- `VMAXBITS` puts into `RESULT` the least width that covers every lane of `VA`, 0 to 32, and `VR` is unchanged
(40_lane_primitives.md R138). -/
def Obligations.VmaxbitsIsLeastCoveringWidth : Prop :=
  ∀ s : State, ∃ b ≤ 32,
    exec .vmaxbits s = .next { s with result := BitVec.ofNat 64 b, consumed := 0, status := 0x00000001 } ∧
    (∀ x ∈ [s.va.l0, s.va.l1, s.va.l2, s.va.l3], x.toNat < 2 ^ b) ∧
    ∀ c, (∀ x ∈ [s.va.l0, s.va.l1, s.va.l2, s.va.l3], x.toNat < 2 ^ c) → b ≤ c

/-- The laws of 40_lane_primitives.md R139, all of them. -/
def Obligations.LaneLaws : Prop :=
  ∀ (v c p : Vec) (k k1 k2 : Nat), k ≤ 15 → k1 ≤ 15 → k2 ≤ 15 →
    shlBytes v 0 = v ∧ shrBytes v 0 = v ∧
    (k1 + k2 ≤ 15 → shlBytes (shlBytes v k1) k2 = shlBytes v (k1 + k2) ∧
      shrBytes (shrBytes v k1) k2 = shrBytes v (k1 + k2)) ∧
    (16 ≤ k1 + k2 → shlBytes (shlBytes v k1) k2 = ⟨0, 0, 0, 0⟩ ∧ shrBytes (shrBytes v k1) k2 = ⟨0, 0, 0, 0⟩) ∧
    (Vec.toU128 (shrBytes (shlBytes v k) k)).toNat = (Vec.toU128 v).toNat % 2 ^ (128 - 8 * k) ∧
    gather v (idxLeft k) = shlBytes v k ∧ gather v (idxRight k) = shrBytes v k ∧
    psum1V (delta1V c p) p = c ∧ delta1V (psum1V c p) p = c ∧
    undelta4V (delta4V c p) p = c ∧ delta4V (undelta4V c p) p = c

/-- `bits32` is `32 - clz32`, and the least `b` in 0..32 with `v < 2^b` (00_scope.md R12). -/
def Obligations.BitWidthIsLeast : Prop :=
  ∀ v : Word, clz32 v ≤ 32 ∧ bits32 v = 32 - clz32 v ∧ v.toNat < 2 ^ bits32 v ∧ ∀ b, v.toNat < 2 ^ b → bits32 v ≤ b

/-! ### Transforms -/

/-- `DELTA1` on every buffer it accepts: `y[0] = x[0]`, `y[i] = x[i] - x[i-1]` (41_transforms.md R150, R151). That 2^62
elements at address 0 are accepted is assumption log 21. -/
def Obligations.Delta1Differences : Prop :=
  ∀ s : State, TransformReady s →
    TransformWrites .delta1 (fun _ j => if j = 0 then element s 0 else element s j - element s (j - 1)) s

/-- `UNDELTA1` and `PREFIXSUM` on every buffer they accept: `y[0] = x[0]`, `y[i] = y[i-1] + x[i]` (41_transforms.md R150, R152,
R155). That 2^62 elements at address 0 are accepted is assumption log 21. -/
def Obligations.Undelta1AndPrefixsumSum : Prop :=
  ∀ s : State, TransformReady s →
    TransformWrites .undelta1 (fun t j => if j = 0 then element s 0 else element t (j - 1) + element s j) s ∧
    TransformWrites .prefixsum (fun t j => if j = 0 then element s 0 else element t (j - 1) + element s j) s

/-- `DELTA4` on every buffer it accepts: the first four elements stay, then `y[i] = x[i] - x[i-4]` (41_transforms.md R150, R153). That
2^62 elements at address 0 are accepted is assumption log 21. -/
def Obligations.Delta4Differences : Prop :=
  ∀ s : State, TransformReady s →
    TransformWrites .delta4 (fun _ j => if j < 4 then element s j else element s j - element s (j - 4)) s

/-- `UNDELTA4` on every buffer it accepts: the first four elements stay, then `y[i] = y[i-4] + x[i]` (41_transforms.md R150, R154). That
2^62 elements at address 0 are accepted is assumption log 21. -/
def Obligations.Undelta4Sums : Prop :=
  ∀ s : State, TransformReady s →
    TransformWrites .undelta4 (fun t j => if j < 4 then element s j else element t (j - 4) + element s j) s

/-- The checks of the five transforms in their order: `OperandRangeError`, then `AccessFault`, nothing written (41_transforms.md
R150). That 2^62 elements at address 0 pass the first check is assumption log 21. -/
def Obligations.TransformChecksInOrder : Prop :=
  ∀ s : State, ∀ i ∈ [Instr.delta1, .undelta1, .delta4, .undelta4, .prefixsum],
    (¬Fits s.srcElements → exec i s = .next (faulted 5 s)) ∧
    (Fits s.srcElements → SomeInaccessible s s.srcElements → exec i s = .next (faulted 8 s))

/-- The inverse transforms undo the differences and the other way round (41_transforms.md R152, R154). -/
def Obligations.TransformsAreInverse : Prop :=
  ∀ x : List Word, undelta1 (delta1 x) = x ∧ delta1 (undelta1 x) = x ∧ undelta4 (delta4 x) = x ∧ delta4 (undelta4 x) = x

/-- The shift-and-add sequence computes the closed form of `PSum1V`, and the vector formulations of the transforms, on full groups of
four with a scalar tail, equal the scalar definitions (40_lane_primitives.md R135, 41_transforms.md R150 to R155). -/
def Obligations.TransformVectorFormsAgree : Prop :=
  (∀ d p : Vec, psum1VShiftAdd d p = psum1V d p) ∧
  ∀ x : List Word,
    delta1Vectors (x.length / 4) Vec.zero x = delta1 x ∧ prefixSumVectors (x.length / 4) Vec.zero x = prefixSum x ∧
    delta4Vectors (x.length / 4) Vec.zero x = delta4 x ∧ undelta4Vectors (x.length / 4) Vec.zero x = undelta4 x

/-! ### Queries -/

/-- The three `BLOCKSIZE` commands: 128, 1, 1, and they raise nothing (42_codec_contract.md R178, 43_block_codec.md R190,
44_streamvbyte.md R220, 45_composite.md R250). -/
def Obligations.BlockSizes : Prop :=
  ∀ s : State,
    decode 0x00000020 = .ok .bpBlocksize ∧ decode 0x00000030 = .ok .svbBlocksize ∧ decode 0x00000040 = .ok .compBlocksize ∧
    exec .bpBlocksize s = .next { s with result := 128, consumed := 0, status := 0x00000001 } ∧
    exec .svbBlocksize s = .next { s with result := 1, consumed := 0, status := 0x00000001 } ∧
    exec .compBlocksize s = .next { s with result := 1, consumed := 0, status := 0x00000001 }

/-- The three `MAXLEN` commands: their closed forms where the value fits 64 bits, else `OperandRangeError` (42_codec_contract.md R179,
43_block_codec.md R191, 44_streamvbyte.md R221, 45_composite.md R251). -/
def Obligations.MaxLengths : Prop :=
  ∀ s : State, ∀ p ∈ [(Instr.bpMaxlen, bpBound s.srcLen.toNat), (Instr.svbMaxlen, svbBound s.srcLen.toNat),
      (Instr.compMaxlen, compBound s.srcLen.toNat)],
    (p.2 < 2 ^ 64 → exec p.1 s = .next { s with result := BitVec.ofNat 64 p.2, consumed := 0, status := 0x00000001 }) ∧
    (2 ^ 64 ≤ p.2 → exec p.1 s = .next (faulted 5 s))

/-- `BP.DECLEN` and `SVB.DECLEN`: the checks in their order, `TruncatedOrCorruptData` below 4 bytes, else the 4-byte count
(42_codec_contract.md R180, 43_block_codec.md R192, 44_streamvbyte.md R222). -/
def Obligations.DeclenReadsTheCount : Prop :=
  ∀ s : State, ∀ i ∈ [Instr.bpDeclen, .svbDeclen],
    (¬Fits s.srcBytes → exec i s = .next (faulted 5 s)) ∧
    (Fits s.srcBytes → SomeInaccessible s s.srcBytes → exec i s = .next (faulted 8 s)) ∧
    (Fits s.srcBytes → AllAccessible s s.srcBytes →
      (s.srcLen.toNat < 4 → exec i s = .next (faulted 3 s)) ∧
      (4 ≤ s.srcLen.toNat → exec i s =
        .next { s with result := (s.mem.readU32 s.src.toNat).setWidth 64, consumed := 4, status := 0x00000001 }))

/-- `COMP.DECLEN`: the checks in their order, `TruncatedOrCorruptData` where a header lies outside its slice, else the sum of the two
counts and 12 (42_codec_contract.md R180, 45_composite.md R252, R253). -/
def Obligations.CompDeclenAddsTheCounts : Prop :=
  ∀ s : State,
    (¬Fits s.srcBytes → exec .compDeclen s = .next (faulted 5 s)) ∧
    (Fits s.srcBytes → SomeInaccessible s s.srcBytes → exec .compDeclen s = .next (faulted 8 s)) ∧
    (Fits s.srcBytes → AllAccessible s s.srcBytes →
      (s.srcLen.toNat < 4 → exec .compDeclen s = .next (faulted 3 s)) ∧
      (4 ≤ s.srcLen.toNat → ∀ bl, bl = (s.mem.readU32 s.src.toNat).toNat →
        (bl < 4 ∨ s.srcLen.toNat < 4 + bl + 4 → exec .compDeclen s = .next (faulted 3 s)) ∧
        (4 ≤ bl → 4 + bl + 4 ≤ s.srcLen.toNat → exec .compDeclen s = .next { s with
          result := (s.mem.readU32 (s.src.toNat + 4)).setWidth 64 + (s.mem.readU32 (s.src.toNat + (4 + bl))).setWidth 64
          consumed := 12, status := 0x00000001 })))

/-! ### Encoders -/

/-- `BP.ENC` completes wherever its checks pass, writing exactly the stream of the source buffer (42_codec_contract.md R181,
43_block_codec.md R199, 20_memory.md R68). -/
def Obligations.BpEncWritesTheStream : Prop :=
  ∀ s : State, EncReady s → s.srcLen.toNat % 128 = 0 → bpBound s.srcLen.toNat ≤ s.dstCap.toNat →
    EncWrites .bpEnc (bpEncode (elements s)) s

/-- `SVB.ENC` completes wherever its checks pass, writing exactly the stream of the source buffer (42_codec_contract.md R181,
44_streamvbyte.md R226, 20_memory.md R68). -/
def Obligations.SvbEncWritesTheStream : Prop :=
  ∀ s : State, EncReady s → svbBound s.srcLen.toNat ≤ s.dstCap.toNat → EncWrites .svbEnc (svbEncode (elements s)) s

/-- `COMP.ENC` completes wherever its checks pass, writing the length of the bulk stream, the `BP` stream of the head and the `SVB`
stream of the tail (42_codec_contract.md R181, 45_composite.md R249, R254, R255, 20_memory.md R68). -/
def Obligations.CompEncWritesTheStream : Prop :=
  ∀ s : State, EncReady s → bpBound (128 * (s.srcLen.toNat / 128)) < 2 ^ 32 →
    compBound s.srcLen.toNat ≤ s.dstCap.toNat →
    EncWrites .compEnc
      (le32 (BitVec.ofNat 32 (bpEncode ((elements s).take (128 * (s.srcLen.toNat / 128)))).length) ++
        bpEncode ((elements s).take (128 * (s.srcLen.toNat / 128))) ++
        svbEncode ((elements s).drop (128 * (s.srcLen.toNat / 128)))) s

/-- The checks of the three `ENC` commands, in their order, each with its cause and nothing written (42_codec_contract.md R181,
43_block_codec.md R199, 44_streamvbyte.md R226, 45_composite.md R255, 60_exceptions.md R276). -/
def Obligations.EncChecksInOrder : Prop :=
  ∀ s : State,
    EncChecks .bpEnc 128 bpBound (fun _ => True) s ∧ EncChecks .svbEnc 1 svbBound (fun _ => True) s ∧
    EncChecks .compEnc 1 compBound (fun n => bpBound (128 * (n / 128)) < 2 ^ 32) s

/-- Where each bit of each delta lies in a packed miniblock (30_encoding.md R105). -/
def Obligations.PackedBitsAreVertical : Prop :=
  ∀ (d : List Word) (b : Nat), d.length = 128 → b ≤ 32 → (∀ x ∈ d, x.toNat < 2 ^ b) →
    (pack d b).length = 4 * b ∧
    ∀ i < 32, ∀ j < 4, ∀ p < b,
      ((pack d b).getD (4 * ((b * i + p) / 32) + j) 0).getLsbD ((b * i + p) % 32) = (d.getD (4 * i + j) 0).getLsbD p

/-- `Pack` and `Unpack` are inverse (43_block_codec.md R195). -/
def Obligations.PackAndUnpackAreInverse : Prop :=
  (∀ (d : List Word) (b : Nat), d.length = 128 → b ≤ 32 → (∀ x ∈ d, x.toNat < 2 ^ b) → unpack (pack d b) b = d) ∧
  (∀ (w : List Word) (b : Nat), w.length = 4 * b → b ≤ 32 → pack (unpack w b) b = w)

/-- The length of a `BP` stream: `4 + H(m) + 16 * sum of b_k` (30_encoding.md R106). -/
def Obligations.BpStreamLength : Prop :=
  ∀ (x : List Word) (m : Nat), x.length = 128 * m →
    (bpEncode x).length =
      4 + (16 * (m / 16) + 4 * ((m % 16 + 3) / 4)) + 16 * ((List.range m).map fun k => bits32 (orAll (block x k))).sum

/-- A `BP` stream byte by byte: it begins with the count; superblock `g` begins, where `bpHeaderAt` says, with its width bytes, reversed
within each word, 0 in unused slots; the packed data of miniblock `k` lies where `bpDataAt` says; and nothing follows (30_encoding.md
R102 to R104, R106, 43_block_codec.md R197, 20_memory.md R61). -/
def Obligations.BpStreamBeginsWithCountAndWidths : Prop :=
  ∀ (x : List Word) (m : Nat), x.length = 128 * m →
    (bpEncode x).take 4 = le32 (BitVec.ofNat 32 x.length) ∧
    (∀ g < (m + 15) / 16, ∀ q < 4 * ((min 16 (m - 16 * g) + 3) / 4),
      (bpEncode x).getD (bpWidthAt (blockWidth x) g q) 0 =
        if q < min 16 (m - 16 * g) then BitVec.ofNat 8 (blockWidth x (16 * g + q)) else 0) ∧
    (∀ k < m, ((bpEncode x).drop (bpDataAt (blockWidth x) m k)).take (16 * blockWidth x k) =
      (pack (block x k) (blockWidth x k)).flatMap le32) ∧
    (bpEncode x).length = bpTotal (blockWidth x) m

/-- The three regions of an `SVB` stream: the count, the control codes two bits each with unused fields 0, and the records at the
offsets their codes give (30_encoding.md R107 to R109, 44_streamvbyte.md R225). -/
def Obligations.SvbStreamFormat : Prop :=
  ∀ x : List Word,
    (svbEncode x).take 4 = le32 (BitVec.ofNat 32 x.length) ∧
    (svbEncode x).length = 4 + (x.length + 3) / 4 + ((delta1 x).map fun d => svbCode d + 1).sum ∧
    (∀ i < 4 * ((x.length + 3) / 4), ((svbEncode x).getD (4 + i / 4) 0).toNat / 4 ^ (i % 4) % 4 =
      if i < x.length then svbCode ((delta1 x).getD i 0) else 0) ∧
    (∀ i < x.length, ∀ k ≤ svbCode ((delta1 x).getD i 0),
      (svbEncode x).getD (4 + (x.length + 3) / 4 + (((delta1 x).take i).map fun d => svbCode d + 1).sum + k) 0 =
        (le32 ((delta1 x).getD i 0)).getD k 0)

/-- The control code of a delta stands for the smallest of 1 to 4 bytes that represents it (44_streamvbyte.md R223). -/
def Obligations.SvbCodeIsSmallest : Prop :=
  ∀ v : Word, svbCode v ≤ 3 ∧ v.toNat < 2 ^ (8 * (svbCode v + 1)) ∧ (∀ c < svbCode v, 2 ^ (8 * (c + 1)) ≤ v.toNat) ∧
    svbCode v = max 0 ((bits32 v + 7) / 8 - 1)

/-! ### Decoders -/

/-- The three `DEC` commands complete wherever their checks pass and the stream decodes, writing exactly the decoded values; for `COMP`
those of the bulk slice and then those of the rest, using 4 bytes, the bulk slice, and what `SVB` uses of the rest
(42_codec_contract.md R182, 43_block_codec.md R201, 44_streamvbyte.md R230, 45_composite.md R252, R256, R257, 20_memory.md R68). That a
destination of 2^62 elements at address 0 passes the range check is assumption log 21. -/
def Obligations.DecWritesTheValues : Prop :=
  ∀ (s : State) (ys : List Word) (used : Nat),
    (comp.decode (stream s) s.dstCap.toNat = some (ys, used) ↔ CompDecodes (stream s) s.dstCap.toNat ys used) ∧
    (DecReady s →
      (bpDecode (stream s) s.dstCap.toNat = some (ys, used) → DecWrites .bpDec ys used s) ∧
      (svbDecode (stream s) s.dstCap.toNat = some (ys, used) → DecWrites .svbDec ys used s) ∧
      (CompDecodes (stream s) s.dstCap.toNat ys used → DecWrites .compDec ys used s))

/-- The three `DEC` commands on a stream that does not decode raise `TruncatedOrCorruptData` and leave every byte of `DW` a free value;
for `COMP` that is a stream that does not split, or of which either part does not decode (42_codec_contract.md R182, 45_composite.md
R252, R256, 20_memory.md R69). The form of the free value is the model's (assumption log 4), and so is that a destination of 2^62
elements at address 0 passes the range check (assumption log 21). -/
def Obligations.DecOfCorruptDataLeavesTheWindowFree : Prop :=
  ∀ s : State, DecReady s →
    (bpDecode (stream s) s.dstCap.toNat = none → DecTruncated .bpDec s) ∧
    (svbDecode (stream s) s.dstCap.toNat = none → DecTruncated .svbDec s) ∧
    (comp.decode (stream s) s.dstCap.toNat = none → DecTruncated .compDec s) ∧
    ((∀ ys used, ¬CompDecodes (stream s) s.dstCap.toNat ys used) → DecTruncated .compDec s)

/-- The checks of the three `DEC` commands, in their order, each with its cause and nothing written (42_codec_contract.md R182,
60_exceptions.md R276). That a destination of 2^62 elements at address 0 passes the range check is assumption log 21. -/
def Obligations.DecChecksInOrder : Prop :=
  ∀ s : State, ∀ i ∈ [Instr.bpDec, .svbDec, .compDec],
    (¬Fits s.srcBytes ∨ ¬Fits s.dstElements → exec i s = .next (faulted 5 s)) ∧
    (Fits s.srcBytes → Fits s.dstElements →
      (Share s.srcBytes s.dstElements → exec i s = .next (faulted 7 s)) ∧
      (Apart s.srcBytes s.dstElements → SomeInaccessible s s.srcBytes ∨ SomeInaccessible s s.dstElements →
        exec i s = .next (faulted 8 s)))

/-- What `BP` accepts, exactly, and what it returns: a count divisible by 128 that fits the output buffer, a width byte of at most 32 in
every used slot, needed or wider, anything in an unused slot, and every byte of the stream used, so that no byte may follow; the values
are `Undelta4` of the unpacked miniblocks (43_block_codec.md R198; for `BP`, 30_encoding.md R111). -/
def Obligations.BpDecodeUsesEveryByte : Prop :=
  ∀ (s : List Byte) (cap : Nat) (ys : List Word) (used : Nat),
    (bpDecode s cap = some (ys, used) ↔ BpDecodes s cap ys used) ∧
    (bpDecode s cap = some (ys, used) →
      used = s.length ∧ ys.length = (u32at s 0).toNat ∧ ys.length % 128 = 0 ∧ ys.length ≤ cap ∧
      ∀ more : List Byte, more ≠ [] → bpDecode (s ++ more) cap = none)

/-- `SVB` ignores bytes after the last record, and `used` tells how many were used: what it accepts and returns, exactly; the first
`used` bytes decode with anything behind them, and no fewer do (44_streamvbyte.md R231; the decoder is R228's). -/
def Obligations.SvbDecodeIgnoresTrailingBytes : Prop :=
  ∀ (s : List Byte) (cap : Nat) (ys : List Word) (used : Nat),
    (svbDecode s cap = some (ys, used) ↔ SvbDecodes s cap ys used) ∧
    (svbDecode s cap = some (ys, used) →
      used ≤ s.length ∧ (∀ more : List Byte, svbDecode (s.take used ++ more) cap = some (ys, used)) ∧
      ∀ n < used, svbDecode (s.take n) cap = none)

/-- The shuffle of 16 data bytes by the table of a key byte gives its four zero-extended deltas, and the length table the bytes they
take (44_streamvbyte.md R233, R234). -/
def Obligations.ShuffleTableGathersTheDeltas : Prop :=
  ∀ (k : Nat) (data : List Byte), k < 256 → data.length = 16 →
    lenTable k = keyLen k 0 + keyLen k 1 + keyLen k 2 + keyLen k 3 ∧
    Vec.lanes (shuffle data k) = (List.range 4).map fun j => BitVec.ofNat 32 (uat data (keyOffset k j) (keyLen k j))

/-- The vectorised decoder returns exactly what the scalar one returns, fault for fault and value for value (44_streamvbyte.md R232 to
R237). -/
def Obligations.VectorisedDecoderEqualsScalar : Prop :=
  ∀ (s : List Byte) (cap : Nat), svbDecodeVectors s cap = svbDecode s cap

/-- The block codec's vector formulation: the width from the lane-wise accumulator, and a lane's column by shift-and-OR, are the scalar
ones (43_block_codec.md R203). -/
def Obligations.BpVectorFormsAgree : Prop :=
  (∀ d : List Word, d.length = 128 → bpWidthVectors d = bpWidth d) ∧
  (∀ (d : List Word) (b : Nat), (∀ x ∈ d, x.toNat < 2 ^ b) → packFieldsOr b d = packFields b d)

/-! ### The contract of a codec -/

/-- Round trip for `BP` (43_block_codec.md R202). -/
def Obligations.BpRoundTrip : Prop :=
  ∀ (x : List Word) (cap : Nat), x.length % 128 = 0 → x.length < 2 ^ 32 → x.length ≤ cap →
    bpDecode (bpEncode x) cap = some (x, (bpEncode x).length)

/-- Round trip for `SVB` (44_streamvbyte.md R229). -/
def Obligations.SvbRoundTrip : Prop :=
  ∀ (x : List Word) (cap : Nat), x.length < 2 ^ 32 → x.length ≤ cap →
    svbDecode (svbEncode x) cap = some (x, (svbEncode x).length)

/-- Round trip and agreement of the count for `COMP` (45_composite.md R258). -/
def Obligations.CompRoundTrip : Prop :=
  ∀ (x : List Word) (cap : Nat), bpBound (128 * (x.length / 128)) < 2 ^ 32 → x.length < 2 ^ 32 → x.length ≤ cap →
    comp.decode (comp.encode x) cap = some (x, (comp.encode x).length) ∧
    ∃ header, comp.decLen (comp.encode x) = some (x.length, header)

/-- The query `MaxLen` is a safe bound on what `Encode` writes, for every input the codec accepts (42_codec_contract.md R172). -/
def Obligations.MaxLenIsASafeBound : Prop :=
  ∀ x : List Word,
    (x.length % 128 = 0 → (bpEncode x).length ≤ bp.maxLen x.length) ∧
    (svbEncode x).length ≤ svb.maxLen x.length ∧ (comp.encode x).length ≤ comp.maxLen x.length

/-- The query `DecLen` is exact: it gives the length of what was encoded, and of what decodes (42_codec_contract.md R173). -/
def Obligations.DecLenIsExact : Prop :=
  (∀ x : List Word, x.length < 2 ^ 32 →
    (x.length % 128 = 0 → bp.decLen (bpEncode x) = some (x.length, 4)) ∧ svb.decLen (svbEncode x) = some (x.length, 4)) ∧
  (∀ (s : List Byte) (cap : Nat) (ys : List Word) (used : Nat), ∀ x ∈ [bp, svb, comp],
    x.decode s cap = some (ys, used) → ∃ header, x.decLen s = some (ys.length, header))

/-! ### The invariant -/

/-- The invariant holds after reset (10_state.md R25, R28, R36; the canonical form of memory is the model's, assumption log 2). -/
def Obligations.InvariantAfterReset : Prop := Inv State.reset

/-- Every step keeps the invariant: memory stays in canonical form and within the address space, `STATUS` keeps its reserved bits 0 and
`ERR = 1` exactly where `CAUSE` is not 0, and `STICKY` its reserved bits and bit 2 at 0 (10_state.md R25, R28, R31, 60_exceptions.md
R272; the canonical form is the model's, assumption log 2). -/
def Obligations.StepKeepsInvariant : Prop := ∀ s t : State, Inv s → step s = .next t → Inv t
end

