-- ==== Sys2Proof/Laws/Memory.lean ====
section
/-!
SUPPORT. The laws of memory: what a byte reads after a write, inside and outside the bytes written; the canonical form is kept; a read
of many bytes is the reads of each.
-/

namespace Sys2Proof.Machine

@[simp] theorem Memory.read_nil (a : Nat) : Memory.read [] a = Memory.blank := rfl

theorem Memory.read_cons (k : Nat) (b : Byte) (m : Memory) (a : Nat) :
    Memory.read ((k, b) :: m) a = if k = a then b else Memory.read m a := rfl

/-- An address that no entry lists reads as the blank byte. -/
theorem Memory.read_unlisted {m : Memory} {a : Nat} (h : ∀ c ∈ m, c.1 ≠ a) : m.read a = Memory.blank := by
  induction m with
  | nil => rfl
  | cons c m ih =>
    obtain ⟨k, b⟩ := c
    rw [Memory.read_cons, if_neg (h (k, b) (by simp))]
    exact ih fun c hc => h c (by simp [hc])

/-- Entries of other addresses in front do not change what an address reads as. -/
theorem Memory.read_append_right {m : Memory} (m' : Memory) {a : Nat} (h : ∀ c ∈ m, c.1 ≠ a) :
    Memory.read (m ++ m') a = m'.read a := by
  induction m with
  | nil => rfl
  | cons c m ih =>
    obtain ⟨k, b⟩ := c
    rw [List.cons_append, Memory.read_cons, if_neg (h (k, b) (by simp))]
    exact ih fun c hc => h c (by simp [hc])

/-- Entries of other addresses behind do not change what an address reads as. -/
theorem Memory.read_append_left (m : Memory) {m' : Memory} {a : Nat} (h : ∀ c ∈ m', c.1 ≠ a) :
    Memory.read (m ++ m') a = m.read a := by
  induction m with
  | nil => exact Memory.read_unlisted h
  | cons c m ih =>
    obtain ⟨k, b⟩ := c
    rw [List.cons_append, Memory.read_cons, Memory.read_cons, ih]

/-- Dropping entries of other addresses does not change what an address reads as. -/
theorem Memory.read_filter {m : Memory} {a : Nat} (p : Host.Cell → Bool) (h : ∀ c ∈ m, c.1 = a → p c = true) :
    Memory.read (m.filter p) a = m.read a := by
  induction m with
  | nil => rfl
  | cons c m ih =>
    obtain ⟨k, b⟩ := c
    have ih' := ih fun c hc => h c (by simp [hc])
    by_cases hk : k = a
    · rw [List.filter_cons_of_pos (h (k, b) (by simp) hk), Memory.read_cons, Memory.read_cons, if_pos hk, if_pos hk]
    · by_cases hp : p (k, b) = true
      · rw [List.filter_cons_of_pos hp, Memory.read_cons, Memory.read_cons, ih']
      · rw [List.filter_cons_of_neg hp, Memory.read_cons, if_neg hk, ih']

/-- The entries of a byte sequence lie at its addresses and are not blank. -/
theorem Memory.cells_mem {bs : List Byte} {a : Nat} {c : Host.Cell} (h : c ∈ Memory.cells a bs) :
    a ≤ c.1 ∧ c.1 < a + bs.length ∧ c.2 ≠ Memory.blank := by
  induction bs generalizing a with
  | nil => simp [Memory.cells] at h
  | cons b bs ih =>
    simp only [Memory.cells] at h
    simp only [List.length_cons]
    split at h
    · have := ih h
      exact ⟨by omega, by omega, this.2.2⟩
    · rcases List.mem_cons.1 h with rfl | h
      · refine ⟨le_refl _, by simp, by assumption⟩
      · have := ih h
        exact ⟨by omega, by omega, this.2.2⟩

/-- The entries of a byte sequence read as its bytes. -/
theorem Memory.read_cells (bs : List Byte) (a i : Nat) (h : i < bs.length) :
    Memory.read (Memory.cells a bs) (a + i) = bs.getD i 0 := by
  induction bs generalizing a i with
  | nil => simp at h
  | cons b bs ih =>
    cases i with
    | zero =>
      simp only [Memory.cells, Nat.add_zero, List.getD_cons_zero]
      split
      · rename_i hb
        rw [hb]
        exact Memory.read_unlisted fun c hc => by have := Memory.cells_mem hc; omega
      · rw [Memory.read_cons, if_pos rfl]
    | succ i =>
      have ih' := ih (a + 1) i (by simpa using h)
      rw [show a + 1 + i = a + (i + 1) by omega] at ih'
      simp only [Memory.cells, List.getD_cons_succ]
      split
      · exact ih'
      · rw [Memory.read_cons, if_neg (by omega), ih']

/-- The addresses of the entries of a byte sequence rise strictly. -/
theorem Memory.cells_pairwise (bs : List Byte) (a : Nat) :
    (Memory.cells a bs).Pairwise (fun c d => c.1 < d.1) := by
  induction bs generalizing a with
  | nil => exact List.Pairwise.nil
  | cons b bs ih =>
    simp only [Memory.cells]
    split
    · exact ih _
    · exact List.pairwise_cons.2 ⟨fun c hc => by have := Memory.cells_mem hc; simp only; omega, ih _⟩

/-- A written byte reads as what was written. -/
theorem Memory.read_writeBytes_inside (m : Memory) (a : Nat) (bs : List Byte) (i : Nat) (h : i < bs.length) :
    (m.writeBytes a bs).read (a + i) = bs.getD i 0 := by
  unfold Memory.writeBytes
  rw [Memory.read_append_left _ (fun c hc => by simp at hc; omega),
    Memory.read_append_right _ (fun c hc => by simp at hc; omega), Memory.read_cells _ _ _ h]

/-- A byte that is not written reads as before. -/
theorem Memory.read_writeBytes_outside (m : Memory) (a : Nat) (bs : List Byte) (x : Nat)
    (h : x < a ∨ a + bs.length ≤ x) : (m.writeBytes a bs).read x = m.read x := by
  unfold Memory.writeBytes
  rcases h with h | h
  · rw [List.append_assoc, Memory.read_append_left, Memory.read_filter]
    · intro c _ hc; simp; omega
    · intro c hc
      rcases List.mem_append.1 hc with hc | hc
      · have := Memory.cells_mem hc; omega
      · simp at hc; omega
  · rw [Memory.read_append_right, Memory.read_filter]
    · intro c _ hc; simp; omega
    · intro c hc
      rcases List.mem_append.1 hc with hc | hc
      · simp at hc; omega
      · have := Memory.cells_mem hc; omega

/-- Storing bytes keeps the canonical form. -/
theorem Memory.writeBytes_wf {m : Memory} (h : m.wf) (a : Nat) (bs : List Byte) : (m.writeBytes a bs).wf := by
  refine ⟨?_, fun c hc => ?_⟩
  · refine List.pairwise_append.2 ⟨List.pairwise_append.2
      ⟨h.1.filter _, Memory.cells_pairwise bs a, fun c hc d hd => ?_⟩, h.1.filter _, fun c hc d hd => ?_⟩
    · have := Memory.cells_mem hd
      simp at hc; omega
    · simp at hd
      rcases List.mem_append.1 hc with hc | hc
      · simp at hc; omega
      · have := Memory.cells_mem hc; omega
  · rcases List.mem_append.1 hc with hc | hc
    · rcases List.mem_append.1 hc with hc | hc
      · exact h.2 c (List.mem_of_mem_filter hc)
      · exact (Memory.cells_mem hc).2.2
    · exact h.2 c (List.mem_of_mem_filter hc)

/-- Storing an integer buffer keeps the canonical form. -/
theorem Memory.writeWords_wf {m : Memory} (h : m.wf) (a : Nat) (xs : List Word) : (m.writeWords a xs).wf :=
  Memory.writeBytes_wf h a _

/-- Storing bytes below the top of the address space keeps every entry below it. -/
theorem Memory.writeBytes_inSpace {m : Memory} (h : m.inSpace) (a : Nat) (bs : List Byte)
    (hb : a + bs.length ≤ Config.addressSpace) : (m.writeBytes a bs).inSpace := by
  intro c hc
  rcases List.mem_append.1 hc with hc | hc
  · rcases List.mem_append.1 hc with hc | hc
    · exact h c (List.mem_of_mem_filter hc)
    · have := Memory.cells_mem hc; omega
  · exact h c (List.mem_of_mem_filter hc)

/-- Memory after reset has the canonical form. -/
theorem State.reset_mem_wf : State.reset.mem.wf := by decide

@[simp] theorem Memory.readBytes_length (m : Memory) (a n : Nat) : (m.readBytes a n).length = n := by
  induction n generalizing a with
  | zero => rfl
  | succ n ih => simp [Memory.readBytes, ih]

/-- Byte `i` of a read is the byte at `a + i`. -/
theorem Memory.readBytes_getD (m : Memory) (a n i : Nat) (h : i < n) : (m.readBytes a n).getD i 0 = m.read (a + i) := by
  induction n generalizing a i with
  | zero => omega
  | succ n ih =>
    cases i with
    | zero => rfl
    | succ i =>
      simp only [Memory.readBytes, List.getD_cons_succ]
      rw [ih (a + 1) i (by omega), show a + 1 + i = a + (i + 1) by omega]

/-- A read is settled by the bytes at its addresses. -/
theorem Memory.readBytes_congr {m m' : Memory} {a n : Nat} (h : ∀ i < n, m.read (a + i) = m'.read (a + i)) :
    m.readBytes a n = m'.readBytes a n := by
  induction n generalizing a with
  | zero => rfl
  | succ n ih =>
    simp only [Memory.readBytes]
    rw [show m.read a = m'.read a from h 0 (by omega)]
    rw [ih fun i hi => by have := h (i + 1) (by omega); rwa [show a + (i + 1) = a + 1 + i by omega] at this]

@[simp] theorem Memory.readWords_length (m : Memory) (a n : Nat) : (m.readWords a n).length = n := by
  induction n generalizing a with
  | zero => rfl
  | succ n ih => simp [Memory.readWords, ih]

/-- Element `i` of a buffer is the word at `a + 4i` (20_memory.md R62). -/
theorem Memory.readWords_getD (m : Memory) (a n i : Nat) (h : i < n) :
    (m.readWords a n).getD i 0 = m.readU32 (a + 4 * i) := by
  induction n generalizing a i with
  | zero => omega
  | succ n ih =>
    cases i with
    | zero => rfl
    | succ i =>
      simp only [Memory.readWords, List.getD_cons_succ]
      rw [ih (a + 4) i (by omega), show a + 4 + 4 * i = a + 4 * (i + 1) by omega]

@[simp] theorem le32_length (v : Word) : (le32 v).length = 4 := rfl

@[simp] theorem bytesOf_length (xs : List Word) : (bytesOf xs).length = 4 * xs.length := by
  induction xs with
  | nil => rfl
  | cons x xs ih =>
    have : bytesOf (x :: xs) = le32 x ++ bytesOf xs := rfl
    rw [this, List.length_append, ih, le32_length, List.length_cons]
    omega

@[simp] theorem freeBytes_length (start n : Nat) : (freeBytes start n).length = n := by
  induction n generalizing start with
  | zero => rfl
  | succ n ih => simp [freeBytes, ih]

/-- Free byte `i` of a run of draws. -/
theorem freeBytes_getD (start n i : Nat) (h : i < n) : (freeBytes start n).getD i 0 = Config.freeByte (start + i) := by
  induction n generalizing start i with
  | zero => omega
  | succ n ih =>
    cases i with
    | zero => rfl
    | succ i =>
      simp only [freeBytes, List.getD_cons_succ]
      rw [ih (start + 1) i (by omega), show start + 1 + i = start + (i + 1) by omega]

end Sys2Proof.Machine
end

