-- ==== Sys2Proof/Laws/State.lean ====
section
/-!
SUPPORT. The state's small lemmas: what each update makes of each field, true by unfolding the update once.
-/

namespace Sys2Proof.Machine

@[simp] theorem State.succeed_cmd (r c : Nat) (s : State) : (s.succeed r c).cmd = s.cmd := rfl
@[simp] theorem State.succeed_status (r c : Nat) (s : State) : (s.succeed r c).status = statusSuccess := rfl
@[simp] theorem State.succeed_result (r c : Nat) (s : State) : (s.succeed r c).result = BitVec.ofNat 64 r := rfl
@[simp] theorem State.succeed_consumed (r c : Nat) (s : State) : (s.succeed r c).consumed = BitVec.ofNat 64 c := rfl
@[simp] theorem State.succeed_sticky (r c : Nat) (s : State) : (s.succeed r c).sticky = s.sticky := rfl
@[simp] theorem State.succeed_src (r c : Nat) (s : State) : (s.succeed r c).src = s.src := rfl
@[simp] theorem State.succeed_srcLen (r c : Nat) (s : State) : (s.succeed r c).srcLen = s.srcLen := rfl
@[simp] theorem State.succeed_dst (r c : Nat) (s : State) : (s.succeed r c).dst = s.dst := rfl
@[simp] theorem State.succeed_dstCap (r c : Nat) (s : State) : (s.succeed r c).dstCap = s.dstCap := rfl
@[simp] theorem State.succeed_va (r c : Nat) (s : State) : (s.succeed r c).va = s.va := rfl
@[simp] theorem State.succeed_vb (r c : Nat) (s : State) : (s.succeed r c).vb = s.vb := rfl
@[simp] theorem State.succeed_vr (r c : Nat) (s : State) : (s.succeed r c).vr = s.vr := rfl
@[simp] theorem State.succeed_mem (r c : Nat) (s : State) : (s.succeed r c).mem = s.mem := rfl
@[simp] theorem State.succeed_holes (r c : Nat) (s : State) : (s.succeed r c).holes = s.holes := rfl
@[simp] theorem State.succeed_pending (r c : Nat) (s : State) : (s.succeed r c).pending = s.pending := rfl
@[simp] theorem State.succeed_returned (r c : Nat) (s : State) : (s.succeed r c).returned = s.returned := rfl
@[simp] theorem State.succeed_draws (r c : Nat) (s : State) : (s.succeed r c).draws = s.draws := rfl

@[simp] theorem State.raise_cmd (c : Cause) (s : State) : (s.raise c).cmd = s.cmd := rfl
@[simp] theorem State.raise_status (c : Cause) (s : State) : (s.raise c).status = statusFault c := rfl
@[simp] theorem State.raise_result (c : Cause) (s : State) : (s.raise c).result = 0 := rfl
@[simp] theorem State.raise_consumed (c : Cause) (s : State) : (s.raise c).consumed = 0 := rfl
@[simp] theorem State.raise_sticky (c : Cause) (s : State) : (s.raise c).sticky = stickySet s.sticky c := rfl
@[simp] theorem State.raise_src (c : Cause) (s : State) : (s.raise c).src = s.src := rfl
@[simp] theorem State.raise_srcLen (c : Cause) (s : State) : (s.raise c).srcLen = s.srcLen := rfl
@[simp] theorem State.raise_dst (c : Cause) (s : State) : (s.raise c).dst = s.dst := rfl
@[simp] theorem State.raise_dstCap (c : Cause) (s : State) : (s.raise c).dstCap = s.dstCap := rfl
@[simp] theorem State.raise_va (c : Cause) (s : State) : (s.raise c).va = s.va := rfl
@[simp] theorem State.raise_vb (c : Cause) (s : State) : (s.raise c).vb = s.vb := rfl
@[simp] theorem State.raise_vr (c : Cause) (s : State) : (s.raise c).vr = s.vr := rfl
@[simp] theorem State.raise_mem (c : Cause) (s : State) : (s.raise c).mem = s.mem := rfl
@[simp] theorem State.raise_holes (c : Cause) (s : State) : (s.raise c).holes = s.holes := rfl
@[simp] theorem State.raise_pending (c : Cause) (s : State) : (s.raise c).pending = s.pending := rfl
@[simp] theorem State.raise_returned (c : Cause) (s : State) : (s.raise c).returned = s.returned := rfl
@[simp] theorem State.raise_draws (c : Cause) (s : State) : (s.raise c).draws = s.draws := rfl

@[simp] theorem State.storeBytes_cmd (a : Nat) (bs : List Byte) (s : State) : (s.storeBytes a bs).cmd = s.cmd := rfl
@[simp] theorem State.storeBytes_status (a : Nat) (bs : List Byte) (s : State) : (s.storeBytes a bs).status = s.status := rfl
@[simp] theorem State.storeBytes_result (a : Nat) (bs : List Byte) (s : State) : (s.storeBytes a bs).result = s.result := rfl
@[simp] theorem State.storeBytes_consumed (a : Nat) (bs : List Byte) (s : State) : (s.storeBytes a bs).consumed = s.consumed := rfl
@[simp] theorem State.storeBytes_sticky (a : Nat) (bs : List Byte) (s : State) : (s.storeBytes a bs).sticky = s.sticky := rfl
@[simp] theorem State.storeBytes_src (a : Nat) (bs : List Byte) (s : State) : (s.storeBytes a bs).src = s.src := rfl
@[simp] theorem State.storeBytes_srcLen (a : Nat) (bs : List Byte) (s : State) : (s.storeBytes a bs).srcLen = s.srcLen := rfl
@[simp] theorem State.storeBytes_dst (a : Nat) (bs : List Byte) (s : State) : (s.storeBytes a bs).dst = s.dst := rfl
@[simp] theorem State.storeBytes_dstCap (a : Nat) (bs : List Byte) (s : State) : (s.storeBytes a bs).dstCap = s.dstCap := rfl
@[simp] theorem State.storeBytes_va (a : Nat) (bs : List Byte) (s : State) : (s.storeBytes a bs).va = s.va := rfl
@[simp] theorem State.storeBytes_vb (a : Nat) (bs : List Byte) (s : State) : (s.storeBytes a bs).vb = s.vb := rfl
@[simp] theorem State.storeBytes_vr (a : Nat) (bs : List Byte) (s : State) : (s.storeBytes a bs).vr = s.vr := rfl
@[simp] theorem State.storeBytes_mem (a : Nat) (bs : List Byte) (s : State) : (s.storeBytes a bs).mem = s.mem.writeBytes a bs := rfl
@[simp] theorem State.storeBytes_holes (a : Nat) (bs : List Byte) (s : State) : (s.storeBytes a bs).holes = s.holes := rfl
@[simp] theorem State.storeBytes_pending (a : Nat) (bs : List Byte) (s : State) : (s.storeBytes a bs).pending = s.pending := rfl
@[simp] theorem State.storeBytes_returned (a : Nat) (bs : List Byte) (s : State) : (s.storeBytes a bs).returned = s.returned := rfl
@[simp] theorem State.storeBytes_draws (a : Nat) (bs : List Byte) (s : State) : (s.storeBytes a bs).draws = s.draws := rfl

@[simp] theorem State.storeWords_cmd (a : Nat) (xs : List Word) (s : State) : (s.storeWords a xs).cmd = s.cmd := rfl
@[simp] theorem State.storeWords_status (a : Nat) (xs : List Word) (s : State) : (s.storeWords a xs).status = s.status := rfl
@[simp] theorem State.storeWords_result (a : Nat) (xs : List Word) (s : State) : (s.storeWords a xs).result = s.result := rfl
@[simp] theorem State.storeWords_consumed (a : Nat) (xs : List Word) (s : State) : (s.storeWords a xs).consumed = s.consumed := rfl
@[simp] theorem State.storeWords_sticky (a : Nat) (xs : List Word) (s : State) : (s.storeWords a xs).sticky = s.sticky := rfl
@[simp] theorem State.storeWords_src (a : Nat) (xs : List Word) (s : State) : (s.storeWords a xs).src = s.src := rfl
@[simp] theorem State.storeWords_srcLen (a : Nat) (xs : List Word) (s : State) : (s.storeWords a xs).srcLen = s.srcLen := rfl
@[simp] theorem State.storeWords_dst (a : Nat) (xs : List Word) (s : State) : (s.storeWords a xs).dst = s.dst := rfl
@[simp] theorem State.storeWords_dstCap (a : Nat) (xs : List Word) (s : State) : (s.storeWords a xs).dstCap = s.dstCap := rfl
@[simp] theorem State.storeWords_va (a : Nat) (xs : List Word) (s : State) : (s.storeWords a xs).va = s.va := rfl
@[simp] theorem State.storeWords_vb (a : Nat) (xs : List Word) (s : State) : (s.storeWords a xs).vb = s.vb := rfl
@[simp] theorem State.storeWords_vr (a : Nat) (xs : List Word) (s : State) : (s.storeWords a xs).vr = s.vr := rfl
@[simp] theorem State.storeWords_mem (a : Nat) (xs : List Word) (s : State) : (s.storeWords a xs).mem = s.mem.writeWords a xs := rfl
@[simp] theorem State.storeWords_holes (a : Nat) (xs : List Word) (s : State) : (s.storeWords a xs).holes = s.holes := rfl
@[simp] theorem State.storeWords_pending (a : Nat) (xs : List Word) (s : State) : (s.storeWords a xs).pending = s.pending := rfl
@[simp] theorem State.storeWords_returned (a : Nat) (xs : List Word) (s : State) : (s.storeWords a xs).returned = s.returned := rfl
@[simp] theorem State.storeWords_draws (a : Nat) (xs : List Word) (s : State) : (s.storeWords a xs).draws = s.draws := rfl

@[simp] theorem State.scribble_cmd (w : Window) (s : State) : (s.scribble w).cmd = s.cmd := rfl
@[simp] theorem State.scribble_status (w : Window) (s : State) : (s.scribble w).status = s.status := rfl
@[simp] theorem State.scribble_result (w : Window) (s : State) : (s.scribble w).result = s.result := rfl
@[simp] theorem State.scribble_consumed (w : Window) (s : State) : (s.scribble w).consumed = s.consumed := rfl
@[simp] theorem State.scribble_sticky (w : Window) (s : State) : (s.scribble w).sticky = s.sticky := rfl
@[simp] theorem State.scribble_src (w : Window) (s : State) : (s.scribble w).src = s.src := rfl
@[simp] theorem State.scribble_srcLen (w : Window) (s : State) : (s.scribble w).srcLen = s.srcLen := rfl
@[simp] theorem State.scribble_dst (w : Window) (s : State) : (s.scribble w).dst = s.dst := rfl
@[simp] theorem State.scribble_dstCap (w : Window) (s : State) : (s.scribble w).dstCap = s.dstCap := rfl
@[simp] theorem State.scribble_va (w : Window) (s : State) : (s.scribble w).va = s.va := rfl
@[simp] theorem State.scribble_vb (w : Window) (s : State) : (s.scribble w).vb = s.vb := rfl
@[simp] theorem State.scribble_vr (w : Window) (s : State) : (s.scribble w).vr = s.vr := rfl
@[simp] theorem State.scribble_mem (w : Window) (s : State) : (s.scribble w).mem = s.mem.writeBytes w.base (freeBytes s.draws w.size) := rfl
@[simp] theorem State.scribble_holes (w : Window) (s : State) : (s.scribble w).holes = s.holes := rfl
@[simp] theorem State.scribble_pending (w : Window) (s : State) : (s.scribble w).pending = s.pending := rfl
@[simp] theorem State.scribble_returned (w : Window) (s : State) : (s.scribble w).returned = s.returned := rfl
@[simp] theorem State.scribble_draws (w : Window) (s : State) : (s.scribble w).draws = s.draws + w.size := rfl

@[simp] theorem State.clearRegisters_cmd (s : State) : s.clearRegisters.cmd = 0 := rfl
@[simp] theorem State.clearRegisters_status (s : State) : s.clearRegisters.status = 0 := rfl
@[simp] theorem State.clearRegisters_result (s : State) : s.clearRegisters.result = 0 := rfl
@[simp] theorem State.clearRegisters_consumed (s : State) : s.clearRegisters.consumed = 0 := rfl
@[simp] theorem State.clearRegisters_sticky (s : State) : s.clearRegisters.sticky = 0 := rfl
@[simp] theorem State.clearRegisters_src (s : State) : s.clearRegisters.src = 0 := rfl
@[simp] theorem State.clearRegisters_srcLen (s : State) : s.clearRegisters.srcLen = 0 := rfl
@[simp] theorem State.clearRegisters_dst (s : State) : s.clearRegisters.dst = 0 := rfl
@[simp] theorem State.clearRegisters_dstCap (s : State) : s.clearRegisters.dstCap = 0 := rfl
@[simp] theorem State.clearRegisters_va (s : State) : s.clearRegisters.va = ⟨0, 0, 0, 0⟩ := rfl
@[simp] theorem State.clearRegisters_vb (s : State) : s.clearRegisters.vb = ⟨0, 0, 0, 0⟩ := rfl
@[simp] theorem State.clearRegisters_vr (s : State) : s.clearRegisters.vr = ⟨0, 0, 0, 0⟩ := rfl
@[simp] theorem State.clearRegisters_mem (s : State) : s.clearRegisters.mem = s.mem := rfl
@[simp] theorem State.clearRegisters_holes (s : State) : s.clearRegisters.holes = s.holes := rfl
@[simp] theorem State.clearRegisters_pending (s : State) : s.clearRegisters.pending = s.pending := rfl
@[simp] theorem State.clearRegisters_returned (s : State) : s.clearRegisters.returned = s.returned := rfl
@[simp] theorem State.clearRegisters_draws (s : State) : s.clearRegisters.draws = s.draws := rfl

@[simp] theorem State.vectorResult_cmd (v : Vec) (s : State) : (s.vectorResult v).cmd = s.cmd := rfl
@[simp] theorem State.vectorResult_status (v : Vec) (s : State) : (s.vectorResult v).status = statusSuccess := rfl
@[simp] theorem State.vectorResult_result (v : Vec) (s : State) : (s.vectorResult v).result = 0 := rfl
@[simp] theorem State.vectorResult_consumed (v : Vec) (s : State) : (s.vectorResult v).consumed = 0 := rfl
@[simp] theorem State.vectorResult_sticky (v : Vec) (s : State) : (s.vectorResult v).sticky = s.sticky := rfl
@[simp] theorem State.vectorResult_src (v : Vec) (s : State) : (s.vectorResult v).src = s.src := rfl
@[simp] theorem State.vectorResult_srcLen (v : Vec) (s : State) : (s.vectorResult v).srcLen = s.srcLen := rfl
@[simp] theorem State.vectorResult_dst (v : Vec) (s : State) : (s.vectorResult v).dst = s.dst := rfl
@[simp] theorem State.vectorResult_dstCap (v : Vec) (s : State) : (s.vectorResult v).dstCap = s.dstCap := rfl
@[simp] theorem State.vectorResult_va (v : Vec) (s : State) : (s.vectorResult v).va = s.va := rfl
@[simp] theorem State.vectorResult_vb (v : Vec) (s : State) : (s.vectorResult v).vb = s.vb := rfl
@[simp] theorem State.vectorResult_vr (v : Vec) (s : State) : (s.vectorResult v).vr = v := rfl
@[simp] theorem State.vectorResult_mem (v : Vec) (s : State) : (s.vectorResult v).mem = s.mem := rfl
@[simp] theorem State.vectorResult_holes (v : Vec) (s : State) : (s.vectorResult v).holes = s.holes := rfl
@[simp] theorem State.vectorResult_pending (v : Vec) (s : State) : (s.vectorResult v).pending = s.pending := rfl
@[simp] theorem State.vectorResult_returned (v : Vec) (s : State) : (s.vectorResult v).returned = s.returned := rfl
@[simp] theorem State.vectorResult_draws (v : Vec) (s : State) : (s.vectorResult v).draws = s.draws := rfl

end Sys2Proof.Machine
end

