-- ==== Sys2Proof/Laws/Commands.lean ====
section
/-!
SUPPORT. What each shared operation of a command can do, said once: the wrapper of each kind of command ends in one of these cases
(60_exceptions.md R276, R280, 30_encoding.md R96), and so does each transaction.
-/

namespace Sys2Proof.Machine

/-- What a transform can do (41_transforms.md R150). -/
theorem runTransform_cases (f : List Word → List Word) (s : State) :
    (∃ c, transformFault s = some c ∧ runTransform f s = s.raise c) ∨
    (transformFault s = none ∧ runTransform f s =
      (s.storeWords s.src.toNat (f (s.mem.readWords s.src.toNat s.srcLen.toNat))).succeed s.srcLen.toNat s.srcLen.toNat) := by
  unfold runTransform
  cases h : transformFault s with
  | none => exact .inr ⟨rfl, rfl⟩
  | some c => exact .inl ⟨c, rfl, rfl⟩

/-- What a `MAXLEN` can do (42_codec_contract.md R179). -/
theorem runMaxLen_cases (x : Codec) (s : State) :
    (2 ^ 64 ≤ x.maxLen s.srcLen.toNat ∧ runMaxLen x s = s.raise .operandRange) ∨
    (x.maxLen s.srcLen.toNat < 2 ^ 64 ∧ runMaxLen x s = s.succeed (x.maxLen s.srcLen.toNat) 0) := by
  unfold runMaxLen
  split
  · exact .inl ⟨by assumption, rfl⟩
  · exact .inr ⟨by omega, rfl⟩

/-- What a `DECLEN` can do (42_codec_contract.md R180). -/
theorem runDeclen_cases (x : Codec) (s : State) :
    (∃ c, declenFault s = some c ∧ runDeclen x s = s.raise c) ∨
    (declenFault s = none ∧ x.decLen (s.mem.readBytes s.src.toNat s.srcLen.toNat) = none ∧
      runDeclen x s = s.raise .truncated) ∨
    (∃ count header, declenFault s = none ∧
      x.decLen (s.mem.readBytes s.src.toNat s.srcLen.toNat) = some (count, header) ∧
      runDeclen x s = s.succeed count header) := by
  unfold runDeclen
  cases h : declenFault s with
  | some c => exact .inl ⟨c, rfl, rfl⟩
  | none =>
    cases h' : x.decLen (s.mem.readBytes s.src.toNat s.srcLen.toNat) with
    | none => exact .inr (.inl ⟨rfl, rfl, rfl⟩)
    | some p => exact .inr (.inr ⟨p.1, p.2, rfl, rfl, rfl⟩)

/-- What an `ENC` can do (42_codec_contract.md R181). -/
theorem runEnc_cases (x : Codec) (s : State) :
    (∃ c, encFault x s = some c ∧ runEnc x s = s.raise c) ∨
    (encFault x s = none ∧ runEnc x s =
      (s.storeBytes s.dst.toNat (encOutput x s)).succeed (encOutput x s).length s.srcLen.toNat) := by
  unfold runEnc
  cases h : encFault x s with
  | none => exact .inr ⟨rfl, rfl⟩
  | some c => exact .inl ⟨c, rfl, rfl⟩

/-- What a `DEC` can do (42_codec_contract.md R182). -/
theorem runDec_cases (x : Codec) (s : State) :
    (∃ c, decFault s = some c ∧ runDec x s = s.raise c) ∨
    (decFault s = none ∧ decOutput x s = none ∧ runDec x s = (s.scribble s.dstElements).raise .truncated) ∨
    (∃ ys consumed, decFault s = none ∧ decOutput x s = some (ys, consumed) ∧
      runDec x s = (s.storeWords s.dst.toNat ys).succeed ys.length consumed) := by
  unfold runDec
  cases h : decFault s with
  | some c => exact .inl ⟨c, rfl, rfl⟩
  | none =>
    cases h' : decOutput x s with
    | none => exact .inr (.inl ⟨rfl, rfl, rfl⟩)
    | some p => exact .inr (.inr ⟨p.1, p.2, rfl, rfl, rfl⟩)

/-- What a step can do, by the event it takes. -/
theorem step_cases (s : State) :
    (s.pending = [] ∧ step s = .next s) ∨
    (∃ e rest, s.pending = e :: rest ∧ step s = runEvent e { s with pending := rest }) := by
  unfold step takeEvent
  cases h : s.pending with
  | nil => exact .inl ⟨rfl, rfl⟩
  | cons e rest => exact .inr ⟨e, rest, rfl, rfl⟩

/-- What a write to `CMD` can do (30_encoding.md R95). -/
theorem runCommand_cases (v : DWord) (s : State) :
    (∃ e, decode (low32 v) = .error e ∧ runCommand v s = .next (State.raise .illegalCommand { s with cmd := low32 v })) ∨
    (∃ i, decode (low32 v) = .ok i ∧ runCommand v s = exec i { s with cmd := low32 v }) := by
  unfold runCommand
  cases h : decode (low32 v) with
  | error e => exact .inl ⟨e, rfl, rfl⟩
  | ok i => exact .inr ⟨i, rfl, rfl⟩

/-- The register of a register's slot is that register (10_state.md R23). -/
@[simp] theorem slotReg_slot (r : Reg) : slotReg r.slot = some r := by cases r <;> rfl

/-- A slot reads as its register does. -/
@[simp] theorem readSlot_slot (s : State) (r : Reg) : readSlot s r.slot = readReg s r := by
  simp [readSlot]

/-- A slot is written as its register is. -/
@[simp] theorem writeSlot_slot (s : State) (r : Reg) (v : DWord) : writeSlot r.slot v s = writeReg v s r := by
  simp [writeSlot]

end Sys2Proof.Machine
end

