-- ==== Sys2Proof/Laws/PerInstr.lean ====
section
/-!
SUPPORT. Statements about every instruction, made one constructor at a time.
-/

namespace Sys2Proof.Laws.EncodesInTable

/-- The `mask` of an instruction's row of spec/opcode_table.json. -/
def mask : Instr → Word
  | .lshl _ => 0xFFFFF0FF
  | .lshr _ => 0xFFFFF0FF
  | _ => 0xFFFFFFFF

/-- The `match` of an instruction's row of spec/opcode_table.json. -/
def pattern : Instr → Word
  | .lshl _ => 0x00000000
  | .lshr _ => 0x00000001
  | .vdelta1 => 0x00000002
  | .vpsum1 => 0x00000003
  | .vdelta4 => 0x00000004
  | .vundelta4 => 0x00000005
  | .vmaxbits => 0x00000006
  | .delta1 => 0x00000010
  | .undelta1 => 0x00000011
  | .delta4 => 0x00000012
  | .undelta4 => 0x00000013
  | .prefixsum => 0x00000014
  | .bpBlocksize => 0x00000020
  | .bpMaxlen => 0x00000021
  | .bpDeclen => 0x00000022
  | .bpEnc => 0x00000023
  | .bpDec => 0x00000024
  | .svbBlocksize => 0x00000030
  | .svbMaxlen => 0x00000031
  | .svbDeclen => 0x00000032
  | .svbEnc => 0x00000033
  | .svbDec => 0x00000034
  | .compBlocksize => 0x00000040
  | .compMaxlen => 0x00000041
  | .compDeclen => 0x00000042
  | .compEnc => 0x00000043
  | .compDec => 0x00000044

/-- The word of a well-formed instruction has the fixed bits of its row (30_encoding.md R94). -/
def Statement (i : Instr) : Prop := i.wellFormed = true → encode i &&& mask i = pattern i

theorem lshl (k : Nat) : Statement (.lshl k) := by
  intro h
  have hk : k < 16 := by simpa [Instr.wellFormed] using h
  interval_cases k <;> rfl

theorem lshr (k : Nat) : Statement (.lshr k) := by
  intro h
  have hk : k < 16 := by simpa [Instr.wellFormed] using h
  interval_cases k <;> rfl

theorem vdelta1 : Statement .vdelta1 := fun _ => rfl

theorem vpsum1 : Statement .vpsum1 := fun _ => rfl

theorem vdelta4 : Statement .vdelta4 := fun _ => rfl

theorem vundelta4 : Statement .vundelta4 := fun _ => rfl

theorem vmaxbits : Statement .vmaxbits := fun _ => rfl

theorem delta1 : Statement .delta1 := fun _ => rfl

theorem undelta1 : Statement .undelta1 := fun _ => rfl

theorem delta4 : Statement .delta4 := fun _ => rfl

theorem undelta4 : Statement .undelta4 := fun _ => rfl

theorem prefixsum : Statement .prefixsum := fun _ => rfl

theorem bpBlocksize : Statement .bpBlocksize := fun _ => rfl

theorem bpMaxlen : Statement .bpMaxlen := fun _ => rfl

theorem bpDeclen : Statement .bpDeclen := fun _ => rfl

theorem bpEnc : Statement .bpEnc := fun _ => rfl

theorem bpDec : Statement .bpDec := fun _ => rfl

theorem svbBlocksize : Statement .svbBlocksize := fun _ => rfl

theorem svbMaxlen : Statement .svbMaxlen := fun _ => rfl

theorem svbDeclen : Statement .svbDeclen := fun _ => rfl

theorem svbEnc : Statement .svbEnc := fun _ => rfl

theorem svbDec : Statement .svbDec := fun _ => rfl

theorem compBlocksize : Statement .compBlocksize := fun _ => rfl

theorem compMaxlen : Statement .compMaxlen := fun _ => rfl

theorem compDeclen : Statement .compDeclen := fun _ => rfl

theorem compEnc : Statement .compEnc := fun _ => rfl

theorem compDec : Statement .compDec := fun _ => rfl

end Sys2Proof.Laws.EncodesInTable
end

