-- ==== Sys2Proof/Laws/Windows.lean ====
section
/-!
SUPPORT. The checks on windows mean what 20_memory.md R70 says of the addresses in them.
-/

namespace Sys2Proof.Machine

@[simp] theorem Window.covers_iff (w : Window) (a : Nat) : w.covers a = true ↔ w.base ≤ a ∧ a < w.base + w.size := by
  simp [Window.covers]

@[simp] theorem Window.pastTop_iff (w : Window) : w.pastTop = true ↔ 2 ^ 64 < w.base + w.size := by
  simp [Window.pastTop, Config.addressSpace]

/-- Two windows overlap exactly where some address lies in both (R70 (b)). -/
theorem Window.overlaps_iff (v w : Window) : v.overlaps w = true ↔ ∃ a, v.covers a = true ∧ w.covers a = true := by
  simp only [Window.overlaps, Window.covers_iff, Bool.and_eq_true, decide_eq_true_eq]
  constructor
  · rintro ⟨⟨⟨h1, h2⟩, h3⟩, h4⟩
    exact ⟨max v.base w.base, by omega, by omega⟩
  · rintro ⟨a, h1, h2⟩
    omega

/-- An address is accessible exactly where no hole contains it (00_scope.md R9). -/
theorem accessible_iff (holes : List Hole) (a : Nat) :
    accessible holes a = true ↔ ∀ h ∈ holes, ¬(h.lo ≤ a ∧ a < h.hi) := by
  simp only [accessible, List.all_eq_true, Bool.not_eq_true', Bool.and_eq_false_iff, decide_eq_false_iff_not]
  exact forall₂_congr fun h _ => by omega

/-- A window is blocked exactly where some address in it is not accessible (R70 (c)). -/
theorem Window.blocked_iff (holes : List Hole) (w : Window) :
    w.blocked holes = true ↔ ∃ a, w.covers a = true ∧ accessible holes a = false := by
  simp only [Window.blocked, Window.covers_iff, Bool.and_eq_true, decide_eq_true_eq, List.any_eq_true]
  constructor
  · rintro ⟨h0, h, hm, ⟨h1, h2⟩, h3⟩
    refine ⟨max w.base h.lo, by omega, ?_⟩
    rw [← Bool.not_eq_true, accessible_iff]
    exact fun hall => hall h hm (by omega)
  · rintro ⟨a, ⟨h1, h2⟩, h3⟩
    rw [← Bool.not_eq_true, accessible_iff] at h3
    push Not at h3
    obtain ⟨h, hm, h4, h5⟩ := h3
    exact ⟨by omega, h, hm, by omega, by omega⟩

/-- The clipped window lies in the address space. -/
theorem Window.clip_inSpace (w : Window) (h : w.base < 2 ^ 64) : w.clip.base + w.clip.size ≤ 2 ^ 64 := by
  simp only [Window.clip, Config.addressSpace]
  omega

end Sys2Proof.Machine
end

