-- ==== Sys2Proof/Tests/Slice0.lean ====
section
/-!
SUPPORT. The model's own tests: words written out from the spec's encoding, vectors of 95_test_vectors.md, and, for every statement that
has hypotheses, a state and operands that meet them together.
-/

namespace Sys2Proof.Tests

open Sys2Proof.Machine Sys2Proof.Claims

/-- The state an outcome goes on with. -/
def after : Host.Outcome State Fault Refusal → State
  | .next t => t
  | .fault _ => State.reset
  | .refused _ => State.reset

/-- A state with the four operand registers set. -/
def operands (src srcLen dst dstCap : DWord) : State :=
  { State.reset with src := src, srcLen := srcLen, dst := dst, dstCap := dstCap }

/-- A state with an integer buffer in memory at `SRC`. -/
def withElements (xs : List Word) (s : State) : State := s.storeWords s.src.toNat xs

/-- A state with a byte buffer in memory at `SRC`. -/
def withStream (bs : List Byte) (s : State) : State := s.storeBytes s.src.toNat bs

/-- A state with both vector operands set. -/
def vectors (va vb : Vec) : State := { State.reset with va := va, vb := vb, vr := ⟨9, 9, 9, 9⟩ }

/-- `A` of 95_test_vectors.md 2.1. -/
def vecA : Vec := ⟨0x04030201, 0x08070605, 0x0C0B0A09, 0x100F0E0D⟩

/-! ### Well-formedness and encoding -/

theorem test_wellFormed_refuses_lshl_16 : (Instr.lshl 16).wellFormed = false := by decide

theorem test_wellFormed_refuses_lshr_16 : (Instr.lshr 16).wellFormed = false := by decide

theorem test_decode_lane :
    decode 0b00000000000000000000111100000000 = .ok (.lshl 15) ∧
    decode 0b00000000000000000000010100000001 = .ok (.lshr 5) ∧
    decode 0b00000000000000000000000000000010 = .ok .vdelta1 ∧
    decode 0b00000000000000000000000000000011 = .ok .vpsum1 ∧
    decode 0b00000000000000000000000000000100 = .ok .vdelta4 ∧
    decode 0b00000000000000000000000000000101 = .ok .vundelta4 ∧
    decode 0b00000000000000000000000000000110 = .ok .vmaxbits := by decide

theorem test_decode_transforms :
    decode 0b00000000000000000000000000010000 = .ok .delta1 ∧
    decode 0b00000000000000000000000000010001 = .ok .undelta1 ∧
    decode 0b00000000000000000000000000010010 = .ok .delta4 ∧
    decode 0b00000000000000000000000000010011 = .ok .undelta4 ∧
    decode 0b00000000000000000000000000010100 = .ok .prefixsum := by decide

theorem test_decode_bp :
    decode 0b00000000000000000000000000100000 = .ok .bpBlocksize ∧
    decode 0b00000000000000000000000000100001 = .ok .bpMaxlen ∧
    decode 0b00000000000000000000000000100010 = .ok .bpDeclen ∧
    decode 0b00000000000000000000000000100011 = .ok .bpEnc ∧
    decode 0b00000000000000000000000000100100 = .ok .bpDec := by decide

theorem test_decode_svb :
    decode 0b00000000000000000000000000110000 = .ok .svbBlocksize ∧
    decode 0b00000000000000000000000000110001 = .ok .svbMaxlen ∧
    decode 0b00000000000000000000000000110010 = .ok .svbDeclen ∧
    decode 0b00000000000000000000000000110011 = .ok .svbEnc ∧
    decode 0b00000000000000000000000000110100 = .ok .svbDec := by decide

theorem test_decode_comp :
    decode 0b00000000000000000000000001000000 = .ok .compBlocksize ∧
    decode 0b00000000000000000000000001000001 = .ok .compMaxlen ∧
    decode 0b00000000000000000000000001000010 = .ok .compDeclen ∧
    decode 0b00000000000000000000000001000011 = .ok .compEnc ∧
    decode 0b00000000000000000000000001000100 = .ok .compDec := by decide

/-- V-F1: the three reasons, in the order of 30_encoding.md R95. -/
theorem test_decode_rejects_by_name :
    decode 0x00001023 = .error .highBits ∧ decode 0x80000023 = .error .highBits ∧
    decode 0x00000050 = .error .reservedRow ∧ decode 0x00000025 = .error .reservedRow ∧
    decode 0x00000007 = .error .reservedRow ∧ decode 0x00000123 = .error .strayCount := by decide

theorem test_table_word : decodeTableWord 32 0x00000023 = some .bpEnc ∧ decodeTableWord 32 0x00000025 = none := by decide

theorem test_fetch_word_runs : (after (step (State.reset.withFetchWord 32 0x30))).result = 1 ∧
    (after (step (State.reset.withFetchWord 32 0x30))).cmd = 0x30 ∧
    (after (step (State.reset.withFetchWord 32 0x30))).pending = [] := by decide

/-! ### Vector commands -/

/-- V-L1, and V-L3 (the pinned shift of 40_lane_primitives.md R133). -/
theorem test_lshl : (after (exec (.lshl 5) (vectors vecA vecA))).vr = ⟨0x00000000, 0x03020100, 0x07060504, 0x0B0A0908⟩ ∧
    (after (exec (.lshl 15) (vectors ⟨0xAABBCCDD, 0x11223344, 0x55667788, 0x99AABBCC⟩ vecA))).vr =
      ⟨0, 0, 0, 0xDD000000⟩ := by decide +kernel

/-- V-L2, V-L10. -/
theorem test_lshr : (after (exec (.lshr 5) (vectors vecA vecA))).vr = ⟨0x09080706, 0x0D0C0B0A, 0x00100F0E, 0x00000000⟩ ∧
    (after (exec (.lshr 13) (vectors ⟨0xAABBCCDD, 0x11223344, 0x55667788, 0x99AABBCC⟩ vecA))).vr =
      ⟨0x0099AABB, 0, 0, 0⟩ := by decide +kernel

/-- V-L12. -/
theorem test_vdelta1 : (after (exec .vdelta1 (vectors ⟨21, 21, 30, 5⟩ ⟨10, 13, 13, 20⟩))).vr = ⟨1, 0, 9, 0xFFFFFFE7⟩ := by
  decide +kernel

/-- V-L15, V-L14. -/
theorem test_vpsum1 : (after (exec .vpsum1 (vectors ⟨1, 0, 9, 0xFFFFFFE7⟩ ⟨0, 0, 0, 20⟩))).vr = ⟨21, 21, 30, 5⟩ ∧
    (after (exec .vpsum1 (vectors ⟨0xFFFFFFFF, 1, 0, 0⟩ ⟨0, 0, 0, 0⟩))).vr = ⟨0xFFFFFFFF, 0, 0, 0⟩ := by decide +kernel

/-- V-L16. -/
theorem test_vdelta4 : (after (exec .vdelta4 (vectors ⟨5, 6, 7, 8⟩ ⟨6, 6, 6, 6⟩))).vr = ⟨0xFFFFFFFF, 0, 1, 2⟩ := by
  decide +kernel

/-- V-L17. -/
theorem test_vundelta4 : (after (exec .vundelta4 (vectors ⟨4, 4, 4, 4⟩ ⟨1, 2, 3, 4⟩))).vr = ⟨5, 6, 7, 8⟩ := by decide +kernel

/-- V-L18, V-L19. -/
theorem test_vmaxbits : (after (exec .vmaxbits (vectors ⟨1, 2, 3, 4⟩ vecA))).result = 3 ∧
    (after (exec .vmaxbits (vectors ⟨0, 0, 0x100, 0⟩ vecA))).result = 9 ∧
    (after (exec .vmaxbits (vectors ⟨0, 0, 0, 0x80000000⟩ vecA))).result = 32 ∧
    (after (exec .vmaxbits (vectors ⟨1, 2, 3, 4⟩ vecA))).vr = ⟨9, 9, 9, 9⟩ := by decide +kernel

/-! ### Transforms -/

/-- V-T1, V-T2. -/
theorem test_delta1 :
    ((after (exec .delta1 (withElements [10, 13, 13, 20, 21] (operands 0x5000 5 0 0)))).mem.readWords 0x5000 5) =
      [10, 3, 0, 7, 1] ∧
    ((after (exec .delta1 (withElements [5, 3] (operands 0x5001 2 0 0)))).mem.readWords 0x5001 2) = [5, 0xFFFFFFFE] := by
  decide +kernel

/-- V-T5, V-T6. -/
theorem test_undelta1 :
    ((after (exec .undelta1 (withElements [10, 3, 0, 7, 1] (operands 0x5000 5 0 0)))).mem.readWords 0x5000 5) =
      [10, 13, 13, 20, 21] ∧
    ((after (exec .undelta1 (withElements [0xFFFFFFFF, 2] (operands 0x5000 2 0 0)))).mem.readWords 0x5000 2) =
      [0xFFFFFFFF, 1] := by decide +kernel

/-- V-T5. -/
theorem test_prefixsum :
    ((after (exec .prefixsum (withElements [10, 3, 0, 7, 1] (operands 0x5000 5 0 0)))).mem.readWords 0x5000 5) =
      [10, 13, 13, 20, 21] := by decide +kernel

/-- V-T7. -/
theorem test_delta4 :
    ((after (exec .delta4 (withElements [1, 2, 3, 4, 5, 6, 7, 8, 9] (operands 0x4000 9 0 0)))).mem.readWords 0x4000 9) =
      [1, 2, 3, 4, 4, 4, 4, 4, 4] := by decide +kernel

/-- V-T9. -/
theorem test_undelta4 :
    ((after (exec .undelta4 (withElements [1, 2, 3, 4, 4, 4, 4, 4, 4] (operands 0x4000 9 0 0)))).mem.readWords 0x4000 9) =
      [1, 2, 3, 4, 5, 6, 7, 8, 9] := by decide +kernel

/-- V-T12, V-T3. -/
theorem test_transform_range : (after (exec .delta1 (operands 0xFFFFFFFFFFFFFFF8 3 0 0))).status = 0x503 ∧
    (after (exec .delta1 (operands 0xFFFFFFFFFFFFFFFF 0 0 0))).status = 1 := by decide +kernel

/-! ### Queries -/

/-- 95_test_vectors.md 2.3, 2.4, 2.5, V-F12. -/
theorem test_maxlen : (after (exec .bpMaxlen (operands 0 2176 0 0))).result = 8740 ∧
    (after (exec .svbMaxlen (operands 0 127 0 0))).result = 544 ∧
    (after (exec .compMaxlen (operands 0 1000000 0 0))).result = 4007852 ∧
    (after (exec .svbMaxlen (operands 0 0x8000000000000000 0 0))).status = 0x503 := by decide +kernel

theorem test_blocksize : (after (exec .bpBlocksize State.reset)).result = 128 ∧
    (after (exec .svbBlocksize State.reset)).result = 1 ∧ (after (exec .compBlocksize State.reset)).result = 1 := by
  decide +kernel

/-- `BP.DECLEN` on `81 00 00 00`, and on 3 bytes. -/
theorem test_bp_declen :
    (after (exec .bpDeclen (withStream [0x81, 0, 0, 0] (operands 0x2000 4 0 0)))).result = 129 ∧
    (after (exec .bpDeclen (withStream [0x81, 0, 0, 0] (operands 0x2000 3 0 0)))).status = 0x303 := by decide +kernel

/-- `SVB.DECLEN` on V-V15's bytes. -/
theorem test_svb_declen :
    (after (exec .svbDeclen (withStream [5, 0, 0, 0, 0xE4] (operands 0x2000 5 0 0)))).result = 5 ∧
    (after (exec .svbDeclen (withStream [5, 0, 0, 0, 0xE4] (operands 0x2000 5 0 0)))).consumed = 4 := by decide +kernel

/-- `COMP.DECLEN` on V-C2, and on 11 zero bytes. -/
theorem test_comp_declen :
    (after (exec .compDeclen (withStream [4, 0, 0, 0, 0, 0, 0, 0, 1, 0, 0, 0, 0, 9] (operands 0x2000 14 0 0)))).result = 1 ∧
    (after (exec .compDeclen (operands 0x2000 11 0 0))).status = 0x303 := by decide +kernel

/-! ### Encoders and decoders -/

/-- The elements 1 to 128. -/
def oneTo128 : List Word := (List.range 128).map fun i => BitVec.ofNat 32 (i + 1)

/-- V-S1: the 56 bytes. -/
def streamS1 : List Byte :=
  [0x80, 0x00, 0x00, 0x00, 0x00, 0x00, 0x00, 0x03, 0x21, 0x49, 0x92, 0x24, 0x22, 0x49, 0x92, 0x24, 0x23, 0x49, 0x92, 0x24,
    0x24, 0x49, 0x92, 0x24, 0x49, 0x92, 0x24, 0x49, 0x49, 0x92, 0x24, 0x49, 0x49, 0x92, 0x24, 0x49, 0x49, 0x92, 0x24, 0x49,
    0x92, 0x24, 0x49, 0x92, 0x92, 0x24, 0x49, 0x92, 0x92, 0x24, 0x49, 0x92, 0x92, 0x24, 0x49, 0x92]

/-- V-S1. -/
theorem test_bp_encode_s1 : bpEncode oneTo128 = streamS1 := by decide +kernel

/-- V-S1, V-B13. -/
theorem test_bp_decode_s1 : bpDecode streamS1 128 = some (oneTo128, 56) := by decide +kernel

/-- V-B14, V-B15, V-B16, V-B17. -/
theorem test_bp_decode_rejects : bpDecode (streamS1.take 55) 128 = none ∧ bpDecode (streamS1 ++ [0]) 128 = none ∧
    bpDecode streamS1 127 = none ∧ bpDecode (streamS1.set 7 0x21) 128 = none := by decide +kernel

/-- V-B1, V-F7, V-B25: the command on an empty buffer. -/
theorem test_bp_enc_empty : (after (exec .bpEnc (operands 0x1000 0 0x1000 4))).result = 4 ∧
    (after (exec .bpEnc (operands 0x1000 0 0x1000 3))).status = 0x603 := by decide +kernel

/-- V-F3 to V-F6. -/
theorem test_enc_causes_in_order : (after (exec .bpEnc (operands 0x1000 100 0x2000 0))).status = 0x103 ∧
    (after (exec .bpEnc (operands 0x1000 0x100000001 0x2000 0))).status = 0x503 ∧
    (after (exec .bpEnc (operands 0x1000 128 0x1100 10))).status = 0x603 ∧
    (after (exec .bpEnc (operands 0x1000 128 0x1100 532))).status = 0x703 := by decide +kernel

/-- V-V4. -/
theorem test_svb_enc :
    (after (exec .svbEnc (withElements [10, 300, 70000, 16847216, 16847215] (operands 0x1000 5 0x2000 26)))).mem.readBytes
      0x2000 20 = [5, 0, 0, 0, 0xE4, 0x03, 0x0A, 0x22, 0x01, 0x44, 0x10, 0x01, 0, 0, 0, 0x01, 0xFF, 0xFF, 0xFF, 0xFF] ∧
    (after (exec .svbEnc (withElements [10, 300, 70000, 16847216, 16847215] (operands 0x1000 5 0x2000 26)))).result = 20 := by
  decide +kernel

/-- V-V16, V-V13's kind of fault. -/
theorem test_svb_dec :
    (after (exec .svbDec (withStream [1, 0, 0, 0, 3, 5, 0, 0, 0] (operands 0x2000 9 0x3000 1)))).mem.readWords 0x3000 1 = [5] ∧
    (after (exec .svbDec (withStream [1, 0, 0, 0, 3, 5, 0, 0, 0] (operands 0x2000 9 0x3000 0)))).status = 0x303 := by
  decide +kernel

/-- V-V7: the fast path of the vectorised decoder. -/
theorem test_svb_vectors_fast :
    svbDecodeVectors ([0x20, 0, 0, 0, 0, 0, 0, 0, 0, 0, 0, 0] ++ List.replicate 32 1) 32 =
      some ((List.range 32).map (fun i => BitVec.ofNat 32 (i + 1)), 44) := by decide +kernel

/-- V-C2. -/
theorem test_comp_enc :
    (after (exec .compEnc (withElements [9] (operands 0x1000 1 0x2000 17)))).mem.readBytes 0x2000 14 =
      [4, 0, 0, 0, 0, 0, 0, 0, 1, 0, 0, 0, 0, 9] := by decide +kernel

/-- V-C2 back, and V-C10. -/
theorem test_comp_dec :
    (after (exec .compDec (withStream [4, 0, 0, 0, 0, 0, 0, 0, 1, 0, 0, 0, 0, 9] (operands 0x2000 14 0x3000 1)))).mem.readWords
      0x3000 1 = [9] ∧
    (after (exec .compDec (operands 0x2000 12 0x3000 1))).status = 0x303 := by decide +kernel

/-- V-F10: the cause is judged on the declared window. -/
theorem test_access_fault :
    (after (exec .svbDec { operands 0x1000 4 0x2000 5 with holes := [⟨0x2013, 0x2014⟩] })).status = 0x803 ∧
    (after (exec .svbDec { operands 0x1000 4 0x2000 4 with holes := [⟨0x2013, 0x2014⟩] })).status = 1 := by decide +kernel

/-! ### Registers -/

/-- V-R3, V-R2. -/
theorem test_register_writes : (after (runWrite 16 0x1FFFFFFFF State.reset)).va.l0 = 0xFFFFFFFF ∧
    after (runWrite 2 5 State.reset) = State.reset ∧ after (runWrite 9 7 State.reset) = State.reset := by decide +kernel

/-- V-R5. -/
theorem test_sticky : (((State.reset.raise .inputLength).raise .illegalCommand).sticky = 0x12) ∧
    (after (runWrite 4 0x02 ((State.reset.raise .inputLength).raise .illegalCommand))).sticky = 0x10 := by decide +kernel

/-- V-F1, V-F2. -/
theorem test_command_word : (after (runCommand 0x25 State.reset)).status = 0x403 ∧
    (after (runCommand 0x25 State.reset)).cmd = 0x25 ∧ (after (runCommand 0x100000030 State.reset)).result = 1 := by decide +kernel

/-! ### Witnesses: a state and operands that meet the hypotheses of a statement together -/

theorem witness_DecodeOfEncode : (Instr.lshl 15).wellFormed = true := by decide

theorem witness_EncodeOfDecode : decode 0x00000F01 = .ok (.lshr 15) := by decide

theorem witness_StepRunsDecodedCommand :
    (State.reset.withFetchWord 32 0xF00).pending = Event.wr 0 0xF00 :: [] ∧
    decode ((0xF00 : DWord).setWidth 32) = .ok (.lshl 15) ∧ (Instr.lshl 15).wellFormed = true := by decide

theorem witness_IllegalWordRaisesIllegalCommand :
    (State.reset.withFetchWord 32 0x50).pending = Event.wr 0 0x50 :: [] ∧
    ∀ i, i.wellFormed = true → encode i ≠ (0x50 : DWord).setWidth 32 := by
  refine ⟨by decide, fun i hi => ?_⟩
  cases i with
  | lshl k =>
    have hk : k < 16 := by simpa [Instr.wellFormed] using hi
    interval_cases k <;> decide
  | lshr k =>
    have hk : k < 16 := by simpa [Instr.wellFormed] using hi
    interval_cases k <;> decide
  | _ => decide

theorem witness_RegisterWriteStoresOnlyItsRegister :
    ({ State.reset with pending := [.wr 23 7] } : State).pending = Event.wr 23 7 :: [] ∧ (23 : Fin 32) ≠ 0 := by decide

theorem witness_RegisterReadReturnsItsRegister :
    ({ State.reset with pending := [.rd 31] } : State).pending = Event.rd 31 :: [] ∧
    Inv { State.reset with pending := [.rd 31] } := by decide

theorem witness_IdleAndHostStore : State.reset.pending = [] ∧
    ({ State.reset with pending := [.store 0xFFFFFFFFFFFFFFFF 7] } : State).pending = Event.store 0xFFFFFFFFFFFFFFFF 7 :: [] := by
  decide

theorem witness_ResetClearsEveryRegister :
    ({ State.reset with pending := [.reset], src := 5 } : State).pending = Event.reset :: [] := by decide

theorem witness_ResetDuringCommandLeavesItsWindowFree :
    ({ operands 0 4 0x3000 2 with pending := [.resetDuring 0x34] } : State).pending = Event.resetDuring 0x34 :: [] ∧
    decode ((0x34 : DWord).setWidth 32) = .ok .svbDec ∧
    writableWindow .svbDec { operands 0 4 0x3000 2 with pending := [.resetDuring 0x34] } = some ⟨0x3000, 8⟩ ∧
    (Window.mk 0x3000 8).covers 0x3007 = true ∧ (Window.mk 0x3000 8).covers 0x3008 = false := by decide

theorem witness_CommandsKeepOperandRegisters :
    exec .vmaxbits State.reset = .next (State.reset.succeed 0 0) ∧
    (∀ k, Instr.vmaxbits ≠ .lshl k ∧ Instr.vmaxbits ≠ .lshr k) ∧
    Instr.vmaxbits ∉ [Instr.vdelta1, .vpsum1, .vdelta4, .vundelta4] :=
  ⟨rfl, by simp, by decide⟩

theorem witness_WritesStayInTheWindow :
    (∃ t, exec .svbEnc (operands 0x1000 1 0x2000 9) = .next t) ∧ (∃ t, exec .svbDec (operands 0x1000 4 0x2000 1) = .next t) ∧
    (∃ t, exec .delta4 (operands 0x1000 5 0 0) = .next t) ∧ (∃ t, exec .bpMaxlen (operands 0 5 0 0) = .next t) ∧
    (∃ t, exec .compDec (operands 0x1000 12 0x2000 1) = .next t) :=
  ⟨⟨_, rfl⟩, ⟨_, rfl⟩, ⟨_, rfl⟩, ⟨_, rfl⟩, ⟨_, rfl⟩⟩

/-- Memories that agree in the window [0x1000, 0x1004) and differ at 0x1004. -/
theorem witness_ReadsStayInTheWindow :
    (∀ w a, sourceWindow .delta1 (operands 0x1000 1 0 0) = some w → w.covers a = true →
      Memory.read [(0x1004, 7)] a = (operands 0x1000 1 0 0).mem.read a) ∧
    Memory.read [(0x1004, 7)] 0x1004 ≠ (operands 0x1000 1 0 0).mem.read 0x1004 := by
  refine ⟨fun w a hw ha => ?_, by decide⟩
  have hw' : (⟨0x1000, 4⟩ : Window) = w := Option.some.inj hw
  subst hw'
  have h4 : a < 0x1004 := by simpa [Window.covers] using (show _ ∧ _ by simpa [Window.covers] using ha).2
  show (if 0x1004 = a then (7 : Byte) else Memory.blank) = Memory.blank
  rw [if_neg (by omega)]

theorem witness_LshlShiftsBytesUp : 15 < 16 ∧ (15 : Nat) ≤ 15 ∧ ¬(15 : Nat) ≤ 14 := by decide

theorem witness_LshrShiftsBytesDown : 15 < 16 ∧ (0 : Nat) + 15 ≤ 15 ∧ ¬(1 : Nat) + 15 ≤ 15 := by decide

theorem witness_LaneLaws : (15 : Nat) ≤ 15 ∧ (7 : Nat) + 8 ≤ 15 ∧ 16 ≤ (8 : Nat) + 8 := by decide

/-- The last byte of the address space, in a window of one element. -/
theorem witness_TransformReady : TransformReady (operands 0xFFFFFFFFFFFFFFFC 1 0 0) := ⟨by decide, fun _ _ => rfl⟩

/-- 2^62 elements at address 0 end exactly at 2^64 (assumption log 21); at address 1 they run past it. -/
theorem test_transform_whole_space : transformFault (operands 0 0x4000000000000000 0 0) = none ∧
    transformFault (operands 1 0x4000000000000000 0 0) = some .operandRange := by decide

theorem witness_TransformChecksInOrder : ¬Fits (operands 0xFFFFFFFFFFFFFFFD 1 0 0).srcElements ∧
    Fits (State.srcElements { operands 0x1000 1 0 0 with holes := [⟨0x1003, 0x1004⟩] }) ∧
    SomeInaccessible { operands 0x1000 1 0 0 with holes := [⟨0x1003, 0x1004⟩] }
      (State.srcElements { operands 0x1000 1 0 0 with holes := [⟨0x1003, 0x1004⟩] }) :=
  ⟨by decide, by decide, 0x1003, by decide, by decide⟩

/-- Both clauses, and the largest `SRC_LEN` for `SVB` on one side of the boundary (V-F12). -/
theorem witness_MaxLengths : bpBound 0x2000000000000000 < 2 ^ 64 ∧ 2 ^ 64 ≤ bpBound 0x8000000000000000 ∧
    svbBound 4340410370284600379 < 2 ^ 64 ∧ 2 ^ 64 ≤ svbBound 4340410370284600380 := by decide

theorem witness_DeclenReadsTheCount : ¬Fits (operands 0xFFFFFFFFFFFFFFFF 2 0 0).srcBytes ∧
    Fits (operands 0xFFFFFFFFFFFFFFFC 4 0 0).srcBytes ∧
    AllAccessible (operands 0xFFFFFFFFFFFFFFFC 4 0 0) (operands 0xFFFFFFFFFFFFFFFC 4 0 0).srcBytes ∧
    SomeInaccessible { operands 0x1000 4 0 0 with holes := [⟨0x1003, 0x1004⟩] }
      (State.srcBytes { operands 0x1000 4 0 0 with holes := [⟨0x1003, 0x1004⟩] }) :=
  ⟨by decide, by decide, fun _ _ => rfl, 0x1003, by decide, by decide⟩

/-- A prefix of 4 in 12 bytes (the least that completes), of 4 in 11 bytes, and of 3. -/
theorem witness_CompDeclenAddsTheCounts :
    ((withStream [4] (operands 0x1000 12 0 0)).mem.readU32 0x1000).toNat = 4 ∧ 4 + 4 + 4 ≤ (12 : Nat) ∧
    (11 : Nat) < 4 + 4 + 4 ∧ ((withStream [3] (operands 0x1000 12 0 0)).mem.readU32 0x1000).toNat < 4 ∧
    Fits (withStream [4] (operands 0x1000 12 0 0)).srcBytes ∧
    AllAccessible (withStream [4] (operands 0x1000 12 0 0)) (withStream [4] (operands 0x1000 12 0 0)).srcBytes :=
  ⟨by decide, by decide, by decide, by decide, by decide, fun _ _ => rfl⟩

/-- 128 elements, and a destination of exactly the bound right behind them. -/
theorem witness_EncReady : EncReady (operands 0x1000 128 0x1200 532) ∧ 128 % 128 = 0 ∧ bpBound 128 ≤ 532 ∧
    EncReady (operands 0x1000 130 0x1208 552) ∧ svbBound 130 ≤ 557 ∧ EncReady (operands 0x1000 130 0x1208 557) ∧
    compBound 130 ≤ 552 ∧ bpBound (128 * (130 / 128)) < 2 ^ 32 := by
  refine ⟨⟨by decide, by decide, by decide, fun a h1 => ?_, fun _ _ => rfl, fun _ _ => rfl⟩, by decide, by decide,
    ⟨by decide, by decide, by decide, fun a h1 => ?_, fun _ _ => rfl, fun _ _ => rfl⟩, by decide,
    ⟨by decide, by decide, by decide, fun a h1 => ?_, fun _ _ => rfl, fun _ _ => rfl⟩, by decide, by decide⟩
  all_goals
    simp [Window.covers, State.srcElements, State.dstBytes, operands] at h1 ⊢
    omega

/-- Each clause of the checks of `BP.ENC` at a boundary. -/
theorem witness_EncChecksInOrder :
    2 ^ 32 ≤ (operands 0 0x100000000 0 0).srcLen.toNat ∧ ¬Fits (operands 0xFFFFFFFFFFFFFE01 128 0 0).srcElements ∧
    127 % 128 ≠ 0 ∧ (531 : Nat) < bpBound 128 ∧
    Share (operands 0x1000 128 0x11FF 532).srcElements (operands 0x1000 128 0x11FF 532).dstBytes ∧
    SomeInaccessible { operands 0x1000 128 0x2000 532 with holes := [⟨0x2213, 0x2214⟩] }
      (State.dstBytes { operands 0x1000 128 0x2000 532 with holes := [⟨0x2213, 0x2214⟩] }) ∧
    ¬bpBound (128 * (1071648768 / 128)) < 2 ^ 32 ∧ bpBound (128 * (1071648767 / 128)) < 2 ^ 32 :=
  ⟨by decide, by decide, by decide, by decide, ⟨0x11FF, by decide, by decide⟩, ⟨0x2213, by decide, by decide⟩, by decide,
    by decide⟩

theorem witness_Packed : (List.replicate 128 (0x7FFFFFFF : Word)).length = 128 ∧ (31 : Nat) ≤ 32 ∧
    (∀ x ∈ List.replicate 128 (0x7FFFFFFF : Word), x.toNat < 2 ^ 31) ∧
    (List.replicate (4 * 31) (5 : Word)).length = 4 * 31 := by
  refine ⟨by simp, by decide, fun x hx => ?_, by simp⟩
  rw [List.eq_of_mem_replicate hx]
  decide

theorem witness_BpStream : (List.replicate 2176 (7 : Word)).length = 128 * 17 ∧
    1 < (17 + 15) / 16 ∧ 3 < 4 * ((min 16 (17 - 16 * 1) + 3) / 4) ∧ ¬3 < min 16 (17 - 16 * 1) := by
  exact ⟨by rw [List.length_replicate], by decide, by decide, by decide⟩

/-- A stream of one value, and the empty ones, with their windows apart. -/
theorem witness_DecReady :
    DecReady (withStream [1, 0, 0, 0, 0, 5] (operands 0x2000 6 0x3000 1)) ∧
    svbDecode (stream (withStream [1, 0, 0, 0, 0, 5] (operands 0x2000 6 0x3000 1))) 1 = some ([5], 6) ∧
    bpDecode (stream (operands 0x2000 4 0x3000 0)) 0 = some ([], 4) ∧
    CompDecodes (stream (withStream [4] (operands 0x2000 12 0x3000 0))) 0 [] 12 ∧
    svbDecode (stream (operands 0x2000 3 0x3000 1)) 1 = none ∧ bpDecode (stream (operands 0x2000 3 0x3000 1)) 1 = none ∧
    comp.decode (stream (operands 0x2000 3 0x3000 1)) 1 = none := by
  refine ⟨⟨by decide, by decide, fun a h1 => ?_, fun _ _ => rfl, fun _ _ => rfl⟩, by decide +kernel, by decide +kernel,
    ⟨4, [], [], 4, by decide +kernel⟩, by decide +kernel, by decide +kernel, by decide +kernel⟩
  simp [Window.covers, State.srcBytes, State.dstElements, operands, withStream, State.storeBytes] at h1 ⊢
  omega

theorem witness_DecChecksInOrder : ¬Fits (operands 0xFFFFFFFFFFFFFFFF 2 0 0).srcBytes ∧
    ¬Fits (operands 0 0 0xFFFFFFFFFFFFFFFD 1).dstElements ∧
    Share (operands 0x1000 4 0x1003 1).srcBytes (operands 0x1000 4 0x1003 1).dstElements ∧
    SomeInaccessible { operands 0x1000 4 0x2000 1 with holes := [⟨0x2003, 0x2004⟩] }
      (State.dstElements { operands 0x1000 4 0x2000 1 with holes := [⟨0x2003, 0x2004⟩] }) :=
  ⟨by decide, by decide, ⟨0x1003, by decide, by decide⟩, 0x2003, by decide, by decide⟩

theorem witness_BpDecodeUsesEveryByte : bpDecode [0, 0, 0, 0] 7 = some ([], 4) ∧ ([0] : List Byte) ≠ [] := by decide +kernel

/-- R111: a width of 1 where 0 would do, and values in the unused slots; a width of 33 is rejected. -/
theorem test_bp_decode_noncanonical :
    bpDecode ([0x80, 0, 0, 0, 7, 8, 9, 1] ++ List.replicate 16 0) 128 = some (List.replicate 128 0, 24) ∧
    bpDecode ([0x80, 0, 0, 0, 0, 0, 0, 33] ++ List.replicate 528 0) 128 = none := by decide +kernel

theorem witness_SvbDecodeIgnoresTrailingBytes : svbDecode [1, 0, 0, 0, 0, 5, 9] 1 = some ([5], 6) ∧ (5 : Nat) < 6 := by
  decide +kernel

theorem witness_ShuffleTableGathersTheDeltas : 255 < 256 ∧ (List.replicate 16 (1 : Byte)).length = 16 := by decide

theorem witness_BpVectorFormsAgree : (List.replicate 128 (3 : Word)).length = 128 ∧
    ∀ x ∈ ([3, 1] : List Word), x.toNat < 2 ^ 2 := by
  simp

theorem witness_RoundTrips : oneTo128.length % 128 = 0 ∧ oneTo128.length < 2 ^ 32 ∧ oneTo128.length ≤ 128 ∧
    bpBound (128 * (oneTo128.length / 128)) < 2 ^ 32 := by decide +kernel

theorem witness_DecLenIsExact : oneTo128.length < 2 ^ 32 ∧ oneTo128.length % 128 = 0 ∧
    bp.decode [0, 0, 0, 0] 0 = some ([], 4) ∧ svb.decode [0, 0, 0, 0] 0 = some ([], 4) ∧
    comp.decode [4, 0, 0, 0, 0, 0, 0, 0, 0, 0, 0, 0] 0 = some ([], 12) := by decide +kernel

theorem witness_StepKeepsInvariant :
    Inv (State.reset.withFetchWord 32 0x25) ∧
    step (State.reset.withFetchWord 32 0x25) = .next (State.raise .illegalCommand { State.reset with cmd := 0x25 }) :=
  ⟨by decide, rfl⟩

end Sys2Proof.Tests
end

section
/-!
PROOFS. `clz32` and `bits32` (00_scope.md R12) tied to the library's `Nat.size`, the binary length of a number.
-/

namespace Sys2Proof.Machine

theorem size_add_two_pow {r i : Nat} (h : r < 2 ^ i) : (r + 2 ^ i).size = i + 1 := by
  have upper : (r + 2 ^ i).size ≤ i + 1 := Nat.size_le.mpr (by rw [Nat.pow_succ]; omega)
  have lower : i < (r + 2 ^ i).size := Nat.lt_size.mpr (Nat.le_add_left _ _)
  omega

/-- Below any bit position, the leading zeros and the binary length of what stands there fill all the places. -/
theorem clzBelow_add_size (v : Word) (i : Nat) : clzBelow v i + (v.toNat % 2 ^ i).size = i := by
  induction i with
  | zero => simp [clzBelow, Nat.mod_one]
  | succ i ih =>
    rw [clzBelow, Nat.mod_pow_succ, ← Nat.toNat_testBit, BitVec.testBit_toNat]
    cases v.getLsbD i with
    | true =>
      have below : v.toNat % 2 ^ i < 2 ^ i := Nat.mod_lt _ (Nat.two_pow_pos i)
      simp [size_add_two_pow below]
    | false =>
      simp only [Bool.false_eq_true, if_false, Bool.toNat_false, Nat.mul_zero, Nat.add_zero]
      omega

theorem clz32_add_size (v : Word) : clz32 v + v.toNat.size = 32 := by
  have full := clzBelow_add_size v 32
  rwa [Nat.mod_eq_of_lt v.isLt] at full

theorem clz32_le (v : Word) : clz32 v ≤ 32 := by
  have := clz32_add_size v
  omega

theorem bits32_eq_size (v : Word) : bits32 v = v.toNat.size := by
  have := clz32_add_size v
  rw [bits32]
  omega

/-- A width covers a value exactly when `bits32` is at most that width (00_scope.md R12). -/
theorem bits32_le_iff {v : Word} {b : Nat} : bits32 v ≤ b ↔ v.toNat < 2 ^ b := by
  rw [bits32_eq_size, Nat.size_le]

theorem toNat_lt_two_pow_bits32 (v : Word) : v.toNat < 2 ^ bits32 v :=
  bits32_le_iff.mp le_rfl

end Sys2Proof.Machine

namespace Sys2Proof.Proofs

open Sys2Proof.Machine

/-- Settles O24, through the characterisation of `bits32` as the least covering width. -/
theorem bitWidthIsLeast : Obligations.BitWidthIsLeast := by
  unfold Obligations.BitWidthIsLeast
  exact fun v => ⟨clz32_le v, rfl, toNat_lt_two_pow_bits32 v, fun _ covers => bits32_le_iff.mpr covers⟩

end Sys2Proof.Proofs
end

section
/-!
PROOFS. How long each sequence is that a command writes to memory: the transforms, the encoders within `MAXLEN` (42_codec_contract.md
R181), the decoders within the room they are given (R182).
-/

namespace Sys2Proof.Machine

/-! ### The transforms -/

@[simp] theorem delta1From_length (prev : Word) (xs : List Word) : (delta1From prev xs).length = xs.length := by
  induction xs generalizing prev with
  | nil => rfl
  | cons x xs ih => simp [delta1From, ih]

@[simp] theorem undelta1From_length (prev : Word) (ds : List Word) : (undelta1From prev ds).length = ds.length := by
  induction ds generalizing prev with
  | nil => rfl
  | cons d ds ih => simp [undelta1From, ih]

@[simp] theorem delta4From_length (p0 p1 p2 p3 : Word) (xs : List Word) :
    (delta4From p0 p1 p2 p3 xs).length = xs.length := by
  induction xs generalizing p0 p1 p2 p3 with
  | nil => rfl
  | cons x xs ih => simp [delta4From, ih]

@[simp] theorem undelta4From_length (p0 p1 p2 p3 : Word) (ds : List Word) :
    (undelta4From p0 p1 p2 p3 ds).length = ds.length := by
  induction ds generalizing p0 p1 p2 p3 with
  | nil => rfl
  | cons d ds ih => simp [undelta4From, ih]

@[simp] theorem delta1_length (xs : List Word) : (delta1 xs).length = xs.length := delta1From_length 0 xs

@[simp] theorem undelta1_length (ds : List Word) : (undelta1 ds).length = ds.length := undelta1From_length 0 ds

@[simp] theorem delta4_length (xs : List Word) : (delta4 xs).length = xs.length := delta4From_length 0 0 0 0 xs

@[simp] theorem undelta4_length (ds : List Word) : (undelta4 ds).length = ds.length := undelta4From_length 0 0 0 0 ds

@[simp] theorem prefixSum_length (xs : List Word) : (prefixSum xs).length = xs.length := undelta1_length xs

/-! ### The encoders -/

@[simp] theorem chunk_length {α : Type} (size count : Nat) (xs : List α) : (chunk size count xs).length = count := by
  induction count generalizing xs with
  | zero => rfl
  | succ count ih => simp [chunk, ih]

@[simp] theorem headerWords_length (ws : List Nat) : (headerWords ws).length = ceilDiv ws.length 4 := by
  simp [headerWords]

@[simp] theorem pack_length (d : List Word) (b : Nat) : (pack d b).length = 4 * b := by
  simp [pack, Nat.mul_comm]

theorem bpWidth_le (d : List Word) : bpWidth d ≤ 32 := bits32_le_iff.mpr (orAll d).isLt

/-- A miniblock packs into at most 512 bytes, as no width is above 32. -/
theorem packed_length_le (mbs : List (List Word)) :
    (mbs.flatMap fun d => bytesOf (pack d (bpWidth d))).length ≤ 512 * mbs.length := by
  induction mbs with
  | nil => simp
  | cons d mbs ih =>
    have width := bpWidth_le d
    simp only [List.flatMap_cons, List.length_append, bytesOf_length, pack_length, List.length_cons]
    omega

theorem bpSuperblock_length_le {mbs : List (List Word)} (h : mbs.length ≤ 16) :
    (bpSuperblock mbs).length ≤ 16 + 512 * mbs.length := by
  have data := packed_length_le mbs
  simp only [bpSuperblock, List.length_append, bytesOf_length, headerWords_length, List.length_map, ceilDiv]
  omega

theorem bpSuperblocks_encoded_length_le (count : Nat) (mbs : List (List Word)) :
    ((chunk 16 count mbs).flatMap bpSuperblock).length ≤ 16 * count + 512 * mbs.length := by
  induction count generalizing mbs with
  | zero => simp [chunk]
  | succ count ih =>
    have first := bpSuperblock_length_le (List.length_take_le 16 mbs)
    have others := ih (mbs.drop 16)
    simp only [chunk, List.flatMap_cons, List.length_append]
    simp only [List.length_take, List.length_drop] at first others
    omega

theorem bpEncode_length_le (x : List Word) : (bpEncode x).length ≤ bpMaxLen x.length := by
  have blocks := bpSuperblocks_encoded_length_le (ceilDiv (x.length / 128) 16) (chunk 128 (x.length / 128) (delta4 x))
  rw [chunk_length] at blocks
  rw [bpEncode, List.length_append, le32_length, bpMaxLen]
  simp only [ceilDiv] at blocks ⊢
  omega

@[simp] theorem svbKeys_length (codes : List Nat) : (svbKeys codes).length = ceilDiv codes.length 4 := by
  simp [svbKeys]

theorem svbRecord_length_le (delta : Word) : (svbRecord delta).length ≤ 4 := by
  simp [svbRecord, leN]

theorem svbRecords_length_le (ds : List Word) : (ds.flatMap svbRecord).length ≤ 4 * ds.length := by
  induction ds with
  | nil => simp
  | cons d ds ih =>
    have first := svbRecord_length_le d
    simp only [List.flatMap_cons, List.length_append, List.length_cons]
    omega

theorem svbEncode_length_le (x : List Word) : (svbEncode x).length ≤ svbMaxLen x.length := by
  have records := svbRecords_length_le (delta1 x)
  simp only [delta1_length] at records
  simp only [svbEncode, svbMaxLen, List.length_append, le32_length, svbKeys_length, List.length_map, delta1_length]
  omega

/-! ### The decoders -/

@[simp] theorem unpack_length (w : List Word) (b : Nat) : (unpack w b).length = 128 := by
  simp [unpack]

theorem bpMiniblocks_length {bs : List Nat} {s : List Byte} {d : List Word} {rest : List Byte}
    (h : bpMiniblocks bs s = some (d, rest)) : d.length = 128 * bs.length := by
  induction bs generalizing s d with
  | nil => simp_all [bpMiniblocks]
  | cons b bs ih =>
    simp only [bpMiniblocks] at h
    split_ifs at h
    split at h
    · cases h
    · next blocks =>
      cases h
      simp only [List.length_append, unpack_length, ih blocks, List.length_cons]
      omega

theorem bpSuperblocks_length {count m : Nat} {s : List Byte} {d : List Word} {rest : List Byte}
    (h : bpSuperblocks count m s = some (d, rest)) : d.length = 128 * min m (16 * count) := by
  induction count generalizing m s d with
  | zero => simp_all [bpSuperblocks]
  | succ count ih =>
    simp only [bpSuperblocks] at h
    split_ifs at h
    split at h
    · cases h
    · next first =>
      split at h
      · cases h
      · next others =>
        cases h
        simp only [List.length_append, bpMiniblocks_length first, ih others, List.length_map, List.length_range]
        omega

theorem bpDecode_length_le {s : List Byte} {cap : Nat} {ys : List Word} {used : Nat}
    (h : bpDecode s cap = some (ys, used)) : ys.length ≤ cap := by
  simp only [bpDecode] at h
  split_ifs at h with _ _ room
  split at h
  · cases h
  · next blocks =>
    split_ifs at h
    cases h
    rw [undelta4_length, bpSuperblocks_length blocks]
    omega

theorem svbValues_length {keys : List Byte} {count i : Nat} {prev : Word} {data : List Byte} {ys : List Word} {used : Nat}
    (h : svbValues keys count i prev data = some (ys, used)) : ys.length = count := by
  induction count generalizing i prev data ys used with
  | zero => simp_all [svbValues]
  | succ count ih =>
    simp only [svbValues] at h
    split_ifs at h
    split at h
    · cases h
    · next others =>
      cases h
      rw [List.length_cons, ih others]

theorem svbDecode_length_le {s : List Byte} {cap : Nat} {ys : List Word} {used : Nat}
    (h : svbDecode s cap = some (ys, used)) : ys.length ≤ cap := by
  simp only [svbDecode] at h
  split_ifs at h with _ room
  split at h
  · cases h
  · next values =>
    cases h
    rw [svbValues_length values]
    omega

/-! ### A codec keeps within its bounds -/

/-- The two bounds of the codec contract: an encoding is no longer than `MAXLEN` says, and a decoding no longer than the room
(42_codec_contract.md R181, R182). -/
def Codec.Bounded (x : Codec) : Prop :=
  (∀ xs, (x.encode xs).length ≤ x.maxLen xs.length) ∧
  ∀ s cap ys used, x.decode s cap = some (ys, used) → ys.length ≤ cap

theorem bp_bounded : bp.Bounded := ⟨bpEncode_length_le, fun _ _ _ _ => bpDecode_length_le⟩

theorem svb_bounded : svb.Bounded := ⟨svbEncode_length_le, fun _ _ _ _ => svbDecode_length_le⟩

theorem headLength_le (a : Codec) (n : Nat) : headLength a n ≤ n := Nat.div_mul_le_self n a.blockSize

theorem compositeEncode_length_le {a z : Codec} (ha : a.Bounded) (hz : z.Bounded) (x : List Word) :
    (compositeEncode a z x).length ≤ compositeMaxLen a z x.length := by
  have bulk := ha.1 (x.take (headLength a x.length))
  have tail := hz.1 (x.drop (headLength a x.length))
  rw [List.length_take, Nat.min_eq_left (headLength_le a x.length)] at bulk
  rw [List.length_drop] at tail
  simp only [compositeEncode, compositeMaxLen, List.length_append, le32_length]
  omega

theorem compositeDecode_length_le {a z : Codec} (ha : a.Bounded) (hz : z.Bounded) {s : List Byte} {cap : Nat}
    {ys : List Word} {used : Nat} (h : compositeDecode a z s cap = some (ys, used)) : ys.length ≤ cap := by
  simp only [compositeDecode] at h
  split at h
  · cases h
  · split at h
    · cases h
    · next ya _ bulk =>
      split_ifs at h
      split at h
      · cases h
      · next rest =>
        cases h
        have := ha.2 _ _ _ _ bulk
        have := hz.2 _ _ _ _ rest
        rw [List.length_append]
        omega

theorem composite_bounded {a z : Codec} (ha : a.Bounded) (hz : z.Bounded) : (composite a z).Bounded :=
  ⟨compositeEncode_length_le ha hz, fun _ _ _ _ => compositeDecode_length_le ha hz⟩

theorem comp_bounded : comp.Bounded := composite_bounded bp_bounded svb_bounded

end Sys2Proof.Machine
end

section
/-!
PROOFS. What a command does to the state, said once for all 27: one of five effects, settled by the operands and memory and not by
`STATUS`, `RESULT`, `CONSUMED` or `STICKY` (10_state.md R32, 30_encoding.md R96, 60_exceptions.md R280, R282).
-/

namespace Sys2Proof.Machine

/-! ### The checks -/

/-- A command can raise this cause; the other two are reserved (60_exceptions.md R272) and of no command (30_encoding.md R97). -/
def Cause.ofCommand : Cause → Bool
  | .negativeValue | .illegalCommand => false
  | .inputLength | .truncated | .operandRange | .outputCapacity | .aliasing | .accessFault => true

theorem transformFault_ofCommand {s : State} {c : Cause} (h : transformFault s = some c) : c.ofCommand = true := by
  unfold transformFault at h
  split_ifs at h <;> cases h <;> rfl

theorem declenFault_ofCommand {s : State} {c : Cause} (h : declenFault s = some c) : c.ofCommand = true := by
  unfold declenFault at h
  split_ifs at h <;> cases h <;> rfl

theorem encFault_ofCommand {x : Codec} {s : State} {c : Cause} (h : encFault x s = some c) : c.ofCommand = true := by
  unfold encFault at h
  split_ifs at h <;> cases h <;> rfl

theorem decFault_ofCommand {s : State} {c : Cause} (h : decFault s = some c) : c.ofCommand = true := by
  unfold decFault at h
  split_ifs at h <;> cases h <;> rfl

/-- A window that passes the check of R70 (a) ends within the address space. -/
theorem Window.fits_of_not_pastTop {w : Window} (h : ¬w.pastTop = true) : w.base + w.size ≤ Config.addressSpace := by
  rw [Window.pastTop_iff] at h
  exact Nat.le_of_not_lt h

theorem srcElements_fits_of_transformFault {s : State} (h : transformFault s = none) :
    s.src.toNat + 4 * s.srcLen.toNat ≤ Config.addressSpace := by
  unfold transformFault at h
  split_ifs at h with top
  exact Window.fits_of_not_pastTop top

theorem dstBytes_fits_of_encFault {x : Codec} {s : State} (h : encFault x s = none) :
    s.dst.toNat + s.dstCap.toNat ≤ Config.addressSpace := by
  unfold encFault at h
  split_ifs at h with _ top
  exact Window.fits_of_not_pastTop fun dst => top (Bool.or_eq_true_iff.mpr (.inr dst))

theorem maxLen_le_of_encFault {x : Codec} {s : State} (h : encFault x s = none) :
    x.maxLen s.srcLen.toNat ≤ s.dstCap.toNat := by
  unfold encFault at h
  split_ifs at h with _ _ _ capacity
  exact Nat.le_of_not_lt capacity

theorem dstElements_fits_of_decFault {s : State} (h : decFault s = none) :
    s.dst.toNat + 4 * s.dstCap.toNat ≤ Config.addressSpace := by
  unfold decFault at h
  split_ifs at h with top
  exact Window.fits_of_not_pastTop fun dst => top (Bool.or_eq_true_iff.mpr (.inr dst))

/-! ### Effects -/

/-- `s` as it would be had the commands before ended otherwise (10_state.md R32). -/
def State.withOutcome (status : Word) (result consumed : DWord) (sticky : Word) (s : State) : State :=
  { s with status := status, result := result, consumed := consumed, sticky := sticky }

@[simp] theorem State.withOutcome_src (status : Word) (r c : DWord) (sticky : Word) (s : State) :
    (s.withOutcome status r c sticky).src = s.src := rfl
@[simp] theorem State.withOutcome_srcLen (status : Word) (r c : DWord) (sticky : Word) (s : State) :
    (s.withOutcome status r c sticky).srcLen = s.srcLen := rfl
@[simp] theorem State.withOutcome_dst (status : Word) (r c : DWord) (sticky : Word) (s : State) :
    (s.withOutcome status r c sticky).dst = s.dst := rfl
@[simp] theorem State.withOutcome_mem (status : Word) (r c : DWord) (sticky : Word) (s : State) :
    (s.withOutcome status r c sticky).mem = s.mem := rfl
@[simp] theorem State.withOutcome_dstElements (status : Word) (r c : DWord) (sticky : Word) (s : State) :
    (s.withOutcome status r c sticky).dstElements = s.dstElements := rfl
@[simp] theorem transformFault_withOutcome (status : Word) (r c : DWord) (sticky : Word) (s : State) :
    transformFault (s.withOutcome status r c sticky) = transformFault s := rfl
@[simp] theorem declenFault_withOutcome (status : Word) (r c : DWord) (sticky : Word) (s : State) :
    declenFault (s.withOutcome status r c sticky) = declenFault s := rfl
@[simp] theorem encFault_withOutcome (x : Codec) (status : Word) (r c : DWord) (sticky : Word) (s : State) :
    encFault x (s.withOutcome status r c sticky) = encFault x s := rfl
@[simp] theorem encOutput_withOutcome (x : Codec) (status : Word) (r c : DWord) (sticky : Word) (s : State) :
    encOutput x (s.withOutcome status r c sticky) = encOutput x s := rfl
@[simp] theorem decFault_withOutcome (status : Word) (r c : DWord) (sticky : Word) (s : State) :
    decFault (s.withOutcome status r c sticky) = decFault s := rfl
@[simp] theorem decOutput_withOutcome (x : Codec) (status : Word) (r c : DWord) (sticky : Word) (s : State) :
    decOutput x (s.withOutcome status r c sticky) = decOutput x s := rfl

theorem State.storeWords_eq_storeBytes (a : Nat) (xs : List Word) (s : State) :
    s.storeWords a xs = s.storeBytes a (bytesOf xs) := rfl

/-- What a command does to the state. -/
inductive Effect where
  /-- Fault entry alone. -/
  | fault (c : Cause)
  /-- A stream that does not decode: the window becomes unspecified (20_memory.md R69). -/
  | corrupt (w : Window)
  /-- Success that writes neither `VR` nor memory. -/
  | complete (result consumed : Nat)
  /-- Success that writes `VR`. -/
  | vector (v : Vec)
  /-- Success that writes memory. -/
  | write (a : Nat) (bs : List Byte) (result consumed : Nat)

/-- An effect, by the model's own operations. -/
def Effect.apply : Effect → State → State
  | .fault c, s => s.raise c
  | .corrupt w, s => (s.scribble w).raise .truncated
  | .complete result consumed, s => s.succeed result consumed
  | .vector v, s => s.vectorResult v
  | .write a bs result consumed, s => (s.storeBytes a bs).succeed result consumed

/-- The bits of `STICKY` that an effect sets. -/
def Effect.gained : Effect → Word
  | .fault c => 1 <<< c.number
  | .corrupt _ => 1 <<< Cause.truncated.number
  | .complete _ _ | .vector _ | .write _ _ _ _ => 0

/-- The six commands whose result is `VR` (10_state.md R30). -/
def writesVr : Instr → Bool
  | .lshl _ | .lshr _ | .vdelta1 | .vpsum1 | .vdelta4 | .vundelta4 => true
  | _ => false

/-- What an effect of command `i` keeps to: a cause that commands raise, `VR` where it is the result, the address space. -/
def Effect.Allowed (i : Instr) : Effect → Prop
  | .fault c => c.ofCommand = true
  | .corrupt w => w.base + w.size ≤ Config.addressSpace
  | .complete _ _ => True
  | .vector _ => writesVr i = true
  | .write a bs _ _ => a + bs.length ≤ Config.addressSpace

/-- On `s`, and however earlier commands ended, `run` has one and the same effect, one that command `i` may have. -/
def HasEffect (i : Instr) (run : State → State) (s : State) : Prop :=
  ∃ e : Effect, e.Allowed i ∧ ∀ status result consumed sticky,
    run (s.withOutcome status result consumed sticky) = e.apply (s.withOutcome status result consumed sticky)

/-- No effect reaches `CMD`, an operand, or what the model adds but for the draws (10_state.md R29, R30). -/
theorem Effect.apply_operands (e : Effect) (s : State) :
    (e.apply s).cmd = s.cmd ∧ (e.apply s).src = s.src ∧ (e.apply s).srcLen = s.srcLen ∧ (e.apply s).dst = s.dst ∧
      (e.apply s).dstCap = s.dstCap ∧ (e.apply s).va = s.va ∧ (e.apply s).vb = s.vb ∧ (e.apply s).holes = s.holes ∧
      (e.apply s).pending = s.pending ∧ (e.apply s).returned = s.returned := by
  cases e <;> simp [Effect.apply]

theorem Effect.apply_vr {e : Effect} {i : Instr} (allowed : e.Allowed i) (h : writesVr i = false) (s : State) :
    (e.apply s).vr = s.vr := by
  cases e with
  | vector v => exact absurd (h.symm.trans allowed) Bool.false_ne_true
  | _ => rfl

/-- An effect overwrites `STATUS`, `RESULT` and `CONSUMED`, and of `STICKY` only sets bits. -/
theorem Effect.apply_withOutcome (e : Effect) (status : Word) (result consumed : DWord) (sticky : Word) (s : State) :
    e.apply (s.withOutcome status result consumed sticky) = { e.apply s with sticky := sticky ||| e.gained } := by
  cases e with
  | fault c => rfl
  | corrupt w => rfl
  | _ => simp [Effect.apply, Effect.gained, State.withOutcome, State.succeed, State.vectorResult, State.storeBytes]

theorem writesVr_eq_false {i : Instr} (noShift : ∀ k, i ≠ .lshl k ∧ i ≠ .lshr k)
    (noVector : i ∉ [.vdelta1, .vpsum1, .vdelta4, .vundelta4]) : writesVr i = false := by
  cases i with
  | lshl k => exact absurd rfl (noShift k).1
  | lshr k => exact absurd rfl (noShift k).2
  | vdelta1 | vpsum1 | vdelta4 | vundelta4 => simp at noVector
  | _ => rfl

/-! ### The effect of each shared operation -/

theorem vectorResult_hasEffect {i : Instr} (hi : writesVr i = true) (f : Vec → Vec → Vec) (s : State) :
    HasEffect i (fun t => t.vectorResult (f t.va t.vb)) s :=
  ⟨.vector (f s.va s.vb), hi, fun _ _ _ _ => rfl⟩

theorem runBlockSize_hasEffect (i : Instr) (x : Codec) (s : State) : HasEffect i (runBlockSize x) s :=
  ⟨.complete x.blockSize 0, trivial, fun _ _ _ _ => rfl⟩

theorem runMaxLen_hasEffect (i : Instr) (x : Codec) (s : State) : HasEffect i (runMaxLen x) s := by
  by_cases large : 2 ^ 64 ≤ x.maxLen s.srcLen.toNat
  · exact ⟨.fault .operandRange, rfl, fun _ _ _ _ => if_pos large⟩
  · exact ⟨.complete (x.maxLen s.srcLen.toNat) 0, trivial, fun _ _ _ _ => if_neg large⟩

theorem runTransform_hasEffect (i : Instr) {f : List Word → List Word} (hf : ∀ xs, (f xs).length = xs.length) (s : State) :
    HasEffect i (runTransform f) s := by
  cases check : transformFault s with
  | some c =>
    exact ⟨.fault c, transformFault_ofCommand check, fun _ _ _ _ => by simp [runTransform, check, Effect.apply]⟩
  | none =>
    have fits : s.src.toNat + (bytesOf (f (s.mem.readWords s.src.toNat s.srcLen.toNat))).length ≤ Config.addressSpace := by
      simpa [hf] using srcElements_fits_of_transformFault check
    exact ⟨.write s.src.toNat _ s.srcLen.toNat s.srcLen.toNat, fits, fun _ _ _ _ => by
      simp [runTransform, check, Effect.apply, State.storeWords_eq_storeBytes]⟩

theorem runDeclen_hasEffect (i : Instr) (x : Codec) (s : State) : HasEffect i (runDeclen x) s := by
  cases check : declenFault s with
  | some c =>
    exact ⟨.fault c, declenFault_ofCommand check, fun _ _ _ _ => by simp [runDeclen, check, Effect.apply]⟩
  | none =>
    cases header : x.decLen (s.mem.readBytes s.src.toNat s.srcLen.toNat) with
    | none => exact ⟨.fault .truncated, rfl, fun _ _ _ _ => by simp [runDeclen, check, header, Effect.apply]⟩
    | some p => exact ⟨.complete p.1 p.2, trivial, fun _ _ _ _ => by simp [runDeclen, check, header, Effect.apply]⟩

theorem runEnc_hasEffect (i : Instr) {x : Codec} (hx : x.Bounded) (s : State) : HasEffect i (runEnc x) s := by
  cases check : encFault x s with
  | some c => exact ⟨.fault c, encFault_ofCommand check, fun _ _ _ _ => by simp [runEnc, check, Effect.apply]⟩
  | none =>
    have fits : s.dst.toNat + (encOutput x s).length ≤ Config.addressSpace := by
      have bound := hx.1 (s.mem.readWords s.src.toNat s.srcLen.toNat)
      rw [Memory.readWords_length] at bound
      calc s.dst.toNat + (encOutput x s).length
        _ ≤ s.dst.toNat + s.dstCap.toNat := Nat.add_le_add_left (bound.trans (maxLen_le_of_encFault check)) _
        _ ≤ Config.addressSpace := dstBytes_fits_of_encFault check
    exact ⟨.write s.dst.toNat (encOutput x s) (encOutput x s).length s.srcLen.toNat, fits,
      fun _ _ _ _ => by simp [runEnc, check, Effect.apply]⟩

theorem runDec_hasEffect (i : Instr) {x : Codec} (hx : x.Bounded) (s : State) : HasEffect i (runDec x) s := by
  cases check : decFault s with
  | some c => exact ⟨.fault c, decFault_ofCommand check, fun _ _ _ _ => by simp [runDec, check, Effect.apply]⟩
  | none =>
    have window := dstElements_fits_of_decFault check
    cases output : decOutput x s with
    | none =>
      exact ⟨.corrupt s.dstElements, window, fun _ _ _ _ => by simp [runDec, check, output, Effect.apply]⟩
    | some p =>
      have room : p.1.length ≤ s.dstCap.toNat := hx.2 _ _ _ _ output
      have fits : s.dst.toNat + (bytesOf p.1).length ≤ Config.addressSpace := by
        rw [bytesOf_length]
        omega
      exact ⟨.write s.dst.toNat (bytesOf p.1) p.1.length p.2, fits, fun _ _ _ _ => by
        simp [runDec, check, output, Effect.apply, State.storeWords_eq_storeBytes]⟩

/-! ### The effect of each command -/

/-- Every command completes, with one effect that does not depend on how earlier commands ended. -/
theorem exec_hasEffect (i : Instr) : ∃ run, (∀ s, exec i s = .next (run s)) ∧ ∀ s, HasEffect i run s := by
  cases i with
  | lshl k => exact ⟨_, fun _ => rfl, vectorResult_hasEffect rfl fun va _ => shlBytes va k⟩
  | lshr k => exact ⟨_, fun _ => rfl, vectorResult_hasEffect rfl fun va _ => shrBytes va k⟩
  | vdelta1 => exact ⟨_, fun _ => rfl, vectorResult_hasEffect rfl delta1V⟩
  | vpsum1 => exact ⟨_, fun _ => rfl, vectorResult_hasEffect rfl psum1V⟩
  | vdelta4 => exact ⟨_, fun _ => rfl, vectorResult_hasEffect rfl delta4V⟩
  | vundelta4 => exact ⟨_, fun _ => rfl, vectorResult_hasEffect rfl undelta4V⟩
  | vmaxbits => exact ⟨_, fun _ => rfl, fun s => ⟨.complete (maxBits s.va) 0, trivial, fun _ _ _ _ => rfl⟩⟩
  | delta1 => exact ⟨_, fun _ => rfl, runTransform_hasEffect _ delta1_length⟩
  | undelta1 => exact ⟨_, fun _ => rfl, runTransform_hasEffect _ undelta1_length⟩
  | delta4 => exact ⟨_, fun _ => rfl, runTransform_hasEffect _ delta4_length⟩
  | undelta4 => exact ⟨_, fun _ => rfl, runTransform_hasEffect _ undelta4_length⟩
  | prefixsum => exact ⟨_, fun _ => rfl, runTransform_hasEffect _ prefixSum_length⟩
  | bpBlocksize => exact ⟨_, fun _ => rfl, runBlockSize_hasEffect _ bp⟩
  | bpMaxlen => exact ⟨_, fun _ => rfl, runMaxLen_hasEffect _ bp⟩
  | bpDeclen => exact ⟨_, fun _ => rfl, runDeclen_hasEffect _ bp⟩
  | bpEnc => exact ⟨_, fun _ => rfl, runEnc_hasEffect _ bp_bounded⟩
  | bpDec => exact ⟨_, fun _ => rfl, runDec_hasEffect _ bp_bounded⟩
  | svbBlocksize => exact ⟨_, fun _ => rfl, runBlockSize_hasEffect _ svb⟩
  | svbMaxlen => exact ⟨_, fun _ => rfl, runMaxLen_hasEffect _ svb⟩
  | svbDeclen => exact ⟨_, fun _ => rfl, runDeclen_hasEffect _ svb⟩
  | svbEnc => exact ⟨_, fun _ => rfl, runEnc_hasEffect _ svb_bounded⟩
  | svbDec => exact ⟨_, fun _ => rfl, runDec_hasEffect _ svb_bounded⟩
  | compBlocksize => exact ⟨_, fun _ => rfl, runBlockSize_hasEffect _ comp⟩
  | compMaxlen => exact ⟨_, fun _ => rfl, runMaxLen_hasEffect _ comp⟩
  | compDeclen => exact ⟨_, fun _ => rfl, runDeclen_hasEffect _ comp⟩
  | compEnc => exact ⟨_, fun _ => rfl, runEnc_hasEffect _ comp_bounded⟩
  | compDec => exact ⟨_, fun _ => rfl, runDec_hasEffect _ comp_bounded⟩

/-- What a command can do on one state. -/
theorem exec_cases (i : Instr) (s : State) : ∃ e : Effect, e.Allowed i ∧ exec i s = .next (e.apply s) := by
  obtain ⟨run, runs, effects⟩ := exec_hasEffect i
  obtain ⟨e, allowed, applies⟩ := effects s
  exact ⟨e, allowed, (runs s).trans (congrArg Host.Outcome.next (applies s.status s.result s.consumed s.sticky))⟩

end Sys2Proof.Machine
end

section
/-!
PROOFS. What one event of the host does (30_encoding.md R90, R91, 10_state.md R22): the step that takes it, and the slots of the
register space (R23).
-/

namespace Sys2Proof.Machine

theorem step_idle {s : State} (h : s.pending = []) : step s = .next s := by
  simp [step, takeEvent, h]

theorem step_event {s : State} {e : Event} {rest : List Event} (h : s.pending = e :: rest) :
    step s = runEvent e { s with pending := rest } := by
  simp [step, takeEvent, h]

theorem runWrite_cmd (v : DWord) (s : State) : runWrite 0 v s = runCommand v s := rfl

theorem runWrite_of_ne {slot : Fin 32} (h : slot ≠ 0) (v : DWord) (s : State) :
    runWrite slot v s = .next (writeSlot slot v s) := if_neg h

theorem runCommand_of_decode {v : DWord} {i : Instr} (h : decode (v.setWidth 32) = .ok i) (s : State) :
    runCommand v s = exec i { s with cmd := v.setWidth 32 } := by
  simp [runCommand, low32, h]

theorem runCommand_completes (v : DWord) (s : State) : ∃ t, runCommand v s = .next t := by
  obtain ⟨_, _, illegal⟩ | ⟨i, _, runs⟩ := runCommand_cases v s
  · exact ⟨_, illegal⟩
  · obtain ⟨e, _, applies⟩ := exec_cases i { s with cmd := low32 v }
    exact ⟨_, runs.trans applies⟩

theorem runEvent_completes (e : Event) (s : State) : ∃ t, runEvent e s = .next t := by
  cases e with
  | wr slot v =>
    by_cases cmd : slot = 0
    · subst cmd
      exact runCommand_completes v s
    · exact ⟨_, runWrite_of_ne cmd v s⟩
  | rd slot => exact ⟨_, rfl⟩
  | store a b => exact ⟨_, rfl⟩
  | reset => exact ⟨_, rfl⟩
  | resetDuring v => exact ⟨_, rfl⟩

/-- A slot with no register is one of the reserved ones, 9 to 15 and 28 to 31 (10_state.md R23). -/
theorem mem_reserved_of_slotReg {slot : Fin 32} (h : slotReg slot = none) :
    slot ∈ [9, 10, 11, 12, 13, 14, 15, 28, 29, 30, 31] := by
  revert slot
  decide

theorem slot_of_slotReg {slot : Fin 32} {r : Reg} (h : slotReg slot = some r) : slot = r.slot := by
  revert slot r
  decide

/-- A slot is that of a register, or reserved. -/
theorem slot_cases (slot : Fin 32) :
    (∃ r : Reg, slot = r.slot) ∨ slot ∈ [9, 10, 11, 12, 13, 14, 15, 28, 29, 30, 31] := by
  cases h : slotReg slot with
  | none => exact .inr (mem_reserved_of_slotReg h)
  | some r => exact .inl ⟨r, slot_of_slotReg h⟩

theorem readSlot_of_reserved {slot : Fin 32} (h : slot ∈ [9, 10, 11, 12, 13, 14, 15, 28, 29, 30, 31]) (s : State) :
    readSlot s slot = 0 := by
  fin_cases h <;> rfl

/-- Every slot reads 0 once the registers are cleared (70_reset_and_hazards.md R300). -/
theorem readSlot_clearRegisters (s : State) (slot : Fin 32) : readSlot s.clearRegisters slot = 0 := by
  obtain ⟨r, rfl⟩ | reserved := slot_cases slot
  · rw [readSlot_slot]
    cases r <;> simp [readReg, zext64]
  · exact readSlot_of_reserved reserved _

end Sys2Proof.Machine
end

section
/-!
PROOFS. The invariant: which words `STATUS` and `STICKY` may hold (10_state.md R25, R28), and that every event of the host keeps both
so and memory canonical and within the address space.
-/

namespace Sys2Proof.Machine

/-! ### The two flag registers -/

/-- What lies within a mask is left alone by it. -/
theorem and_mask_of_and_not_eq_zero {w m : Word} (h : w &&& ~~~m = 0#32) : w &&& m = w := by
  calc w &&& m = (w &&& m) ||| (w &&& ~~~m) := by rw [h, BitVec.or_zero]
    _ = w &&& (m ||| ~~~m) := BitVec.and_or_distrib_left.symm
    _ = w := by rw [BitVec.or_not_self, BitVec.and_allOnes]

theorem and_statusMask_of_legal {w : Word} (h : statusLegal w = true) : w &&& statusMask = w := by
  simp only [statusLegal, Bool.and_eq_true, beq_iff_eq] at h
  obtain ⟨⟨⟨⟨reserved, _⟩, _⟩, _⟩, _⟩ := h
  exact and_mask_of_and_not_eq_zero reserved

theorem and_stickyMask_of_legal {w : Word} (h : stickyLegal w = true) : w &&& stickyMask = w := by
  simp only [stickyLegal, Bool.and_eq_true, beq_iff_eq] at h
  exact and_mask_of_and_not_eq_zero h.1

theorem statusLegal_zero : statusLegal 0 = true := by decide

theorem statusLegal_success : statusLegal statusSuccess = true := by decide

theorem stickyLegal_zero : stickyLegal 0 = true := by decide

theorem statusLegal_fault {c : Cause} (h : c ≠ .negativeValue) : statusLegal (statusFault c) = true := by
  cases c with
  | negativeValue => exact absurd rfl h
  | _ => decide

/-- The bits of `STICKY` that stay 0: 0, 2 and 31 to 9 (10_state.md R28). -/
def stickyReserved : Word := ~~~stickyMask ||| BitVec.twoPow 32 2

theorem stickyLegal_iff (w : Word) : stickyLegal w = true ↔ w &&& stickyReserved = 0#32 := by
  rw [stickyReserved, BitVec.and_or_distrib_left, BitVec.or_eq_zero_iff, BitVec.and_twoPow, stickyLegal]
  have bit : BitVec.twoPow 32 2 ≠ 0#32 := by decide
  cases w.getLsbD 2 <;> simp [bit]

theorem stickyLegal_set {w : Word} {c : Cause} (hw : stickyLegal w = true) (hc : c ≠ .negativeValue) :
    stickyLegal (stickySet w c) = true := by
  rw [stickyLegal_iff] at hw ⊢
  have bit : (1 : Word) <<< c.number &&& stickyReserved = 0#32 := by
    cases c with
    | negativeValue => exact absurd rfl hc
    | _ => decide
  rw [stickySet, BitVec.and_or_distrib_right, hw, bit, BitVec.or_zero]

theorem stickyLegal_clear {w : Word} (hw : stickyLegal w = true) (v : Word) : stickyLegal (stickyClear w v) = true := by
  rw [stickyLegal_iff] at hw ⊢
  rw [stickyClear, BitVec.and_assoc, BitVec.and_comm (~~~_), ← BitVec.and_assoc, hw, BitVec.zero_and]

/-! ### The invariant under each operation -/

theorem Inv.succeed {s : State} (h : Inv s) (result consumed : Nat) : Inv (s.succeed result consumed) := by
  obtain ⟨wf, inSpace, _, sticky⟩ := h
  exact ⟨wf, inSpace, statusLegal_success, sticky⟩

theorem Inv.raise {s : State} {c : Cause} (h : Inv s) (hc : c ≠ .negativeValue) : Inv (s.raise c) := by
  obtain ⟨wf, inSpace, _, sticky⟩ := h
  exact ⟨wf, inSpace, statusLegal_fault hc, stickyLegal_set sticky hc⟩

theorem Inv.storeBytes {s : State} (h : Inv s) {a : Nat} {bs : List Byte} (fits : a + bs.length ≤ Config.addressSpace) :
    Inv (s.storeBytes a bs) := by
  obtain ⟨wf, inSpace, status, sticky⟩ := h
  exact ⟨Memory.writeBytes_wf wf a bs, Memory.writeBytes_inSpace inSpace a bs fits, status, sticky⟩

theorem Inv.scribble {s : State} (h : Inv s) {w : Window} (fits : w.base + w.size ≤ Config.addressSpace) :
    Inv (s.scribble w) := by
  obtain ⟨wf, inSpace, status, sticky⟩ := h
  exact ⟨Memory.writeBytes_wf wf .., Memory.writeBytes_inSpace inSpace _ _ (by rwa [freeBytes_length]), status, sticky⟩

theorem Inv.clearRegisters {s : State} (h : Inv s) : Inv s.clearRegisters := by
  obtain ⟨wf, inSpace, _, _⟩ := h
  exact ⟨wf, inSpace, statusLegal_zero, stickyLegal_zero⟩

theorem ne_negativeValue_of_ofCommand {c : Cause} (h : c.ofCommand = true) : c ≠ .negativeValue := by
  rintro rfl
  cases h

theorem Inv.applyEffect {s : State} {i : Instr} {e : Effect} (h : Inv s) (allowed : e.Allowed i) : Inv (e.apply s) := by
  cases e with
  | fault c => exact h.raise (ne_negativeValue_of_ofCommand allowed)
  | corrupt w => exact (h.scribble allowed).raise (by decide)
  | complete result consumed => exact h.succeed result consumed
  | vector v => exact Inv.succeed (s := { s with vr := v }) h 0 0
  | write a bs result consumed => exact (h.storeBytes allowed).succeed result consumed

/-! ### The invariant under each event -/

theorem Inv.exec {s t : State} {i : Instr} (h : Inv s) (ht : exec i s = .next t) : Inv t := by
  obtain ⟨e, allowed, applies⟩ := exec_cases i s
  cases applies.symm.trans ht
  exact h.applyEffect allowed

theorem Inv.writeReg {s : State} (h : Inv s) (v : DWord) (r : Reg) : Inv (writeReg v s r) := by
  cases r with
  | sticky =>
    obtain ⟨wf, inSpace, status, sticky⟩ := h
    exact ⟨wf, inSpace, status, stickyLegal_clear sticky _⟩
  | _ => exact h

theorem Inv.writeSlot {s : State} (h : Inv s) (v : DWord) (slot : Fin 32) : Inv (writeSlot slot v s) := by
  unfold Machine.writeSlot
  cases slotReg slot with
  | none => exact h
  | some r => exact h.writeReg v r

theorem Inv.runCommand {s t : State} {v : DWord} (h : Inv s) (ht : runCommand v s = .next t) : Inv t := by
  have stored : Inv { s with cmd := low32 v } := h
  obtain ⟨_, _, illegal⟩ | ⟨i, _, runs⟩ := runCommand_cases v s
  · cases illegal.symm.trans ht
    exact stored.raise (by decide)
  · exact stored.exec (runs.symm.trans ht)

theorem Inv.runWrite {s t : State} {slot : Fin 32} {v : DWord} (h : Inv s) (ht : runWrite slot v s = .next t) : Inv t := by
  by_cases cmd : slot = 0
  · subst cmd
    exact h.runCommand ht
  · cases (runWrite_of_ne cmd v s).symm.trans ht
    exact h.writeSlot v slot

theorem writableWindow_base_lt {i : Instr} {s : State} {w : Window} (h : writableWindow i s = some w) :
    w.base < 2 ^ 64 := by
  cases i <;> cases h <;> exact BitVec.isLt _

theorem Inv.abandonCommand {s : State} (h : Inv s) (v : DWord) : Inv (abandonCommand v s) := by
  unfold Machine.abandonCommand
  split
  · exact h.clearRegisters
  · split
    · exact h.clearRegisters
    · next window => exact (h.scribble (Window.clip_inSpace _ (writableWindow_base_lt window))).clearRegisters

theorem Inv.hostStore {s : State} (h : Inv s) (a : DWord) (b : Byte) : Inv (hostStore a b s) :=
  h.storeBytes (Nat.succ_le_of_lt a.isLt)

theorem Inv.runEvent {s t : State} {e : Event} (h : Inv s) (ht : runEvent e s = .next t) : Inv t := by
  cases e with
  | wr slot v => exact h.runWrite ht
  | rd slot => cases ht; exact h
  | store a b => cases ht; exact h.hostStore a b
  | reset => cases ht; exact h.clearRegisters
  | resetDuring v => cases ht; exact h.abandonCommand v

end Sys2Proof.Machine
end

section
/-!
PROOFS. The statements about the register space, the steps and the invariant (10_state.md).
-/

namespace Sys2Proof.Proofs

open Sys2Proof.Machine

/-- Settles O59. -/
theorem invariantAfterReset : Obligations.InvariantAfterReset :=
  ⟨State.reset_mem_wf, by simp [State.reset], statusLegal_zero, stickyLegal_zero⟩

/-- Settles O60: a step is idle or takes one event, and every event keeps the invariant. -/
theorem stepKeepsInvariant : Obligations.StepKeepsInvariant := by
  unfold Obligations.StepKeepsInvariant
  intro s t inv steps
  obtain ⟨_, idle⟩ | ⟨e, rest, _, takes⟩ := step_cases s
  · cases idle.symm.trans steps
    exact inv
  · have inv' : Inv { s with pending := rest } := inv
    exact inv'.runEvent (takes.symm.trans steps)

/-- Settles O10: of all the events only a command could stop, and every command completes. -/
theorem everyStepCompletes : Obligations.EveryStepCompletes := by
  unfold Obligations.EveryStepCompletes
  intro s
  obtain ⟨_, idle⟩ | ⟨e, rest, _, takes⟩ := step_cases s
  · exact ⟨s, idle⟩
  · rw [takes]
    exact runEvent_completes e _

/-- Settles O15: each of the five effects leaves these registers alone, and only a vector result writes `VR`. -/
theorem commandsKeepOperandRegisters : Obligations.CommandsKeepOperandRegisters := by
  unfold Obligations.CommandsKeepOperandRegisters
  intro i s t runs
  obtain ⟨e, allowed, applies⟩ := exec_cases i s
  cases applies.symm.trans runs
  obtain ⟨cmd, src, srcLen, dst, dstCap, va, vb, holes, pending, returned⟩ := e.apply_operands s
  refine ⟨cmd, src, srcLen, dst, dstCap, va, vb, holes, pending, returned, fun noShift noVector => ?_⟩
  exact e.apply_vr allowed (writesVr_eq_false noShift noVector) s

/-- Settles O16: a command has one effect whatever `STATUS`, `RESULT`, `CONSUMED` and `STICKY` hold, and an effect overwrites the
first three and sets bits of the fourth. -/
theorem commandsIgnoreEarlierOutcomes : Obligations.CommandsIgnoreEarlierOutcomes := by
  unfold Obligations.CommandsIgnoreEarlierOutcomes
  intro i s status result consumed
  obtain ⟨run, runs, effects⟩ := exec_hasEffect i
  obtain ⟨e, _, applies⟩ := effects s
  have same : ∀ st r c sticky, run (s.withOutcome st r c sticky) =
      { e.apply s with sticky := sticky ||| e.gained } :=
    fun st r c sticky => (applies st r c sticky).trans (e.apply_withOutcome st r c sticky s)
  refine ⟨?_, e.apply s, e.gained, fun sticky => ?_⟩
  · calc exec i (s.withOutcome status result consumed s.sticky)
      _ = .next { e.apply s with sticky := s.sticky ||| e.gained } := by rw [runs, same]
      _ = exec i (s.withOutcome s.status s.result s.consumed s.sticky) := by rw [runs, same]
  · calc exec i (s.withOutcome s.status s.result s.consumed sticky)
      _ = .next { e.apply s with sticky := sticky ||| e.gained } := by rw [runs, same]

/-- Settles O5. -/
theorem stepRunsDecodedCommand : Obligations.StepRunsDecodedCommand := by
  unfold Obligations.StepRunsDecodedCommand
  intro s v rest i sent decodes _
  calc step s
    _ = runWrite 0 v { s with pending := rest } := step_event sent
    _ = runCommand v { s with pending := rest } := runWrite_cmd v _
    _ = exec i { s with pending := rest, cmd := v.setWidth 32 } := runCommand_of_decode decodes _

/-- Settles O7: the write reaches the slot's register alone, and a reserved slot has none. -/
theorem registerWriteStoresOnlyItsRegister : Obligations.RegisterWriteStoresOnlyItsRegister := by
  unfold Obligations.RegisterWriteStoresOnlyItsRegister
  intro s slot v rest sent notCmd
  have writes : step s = .next (writeSlot slot v { s with pending := rest }) :=
    (step_event sent).trans (runWrite_of_ne notCmd v _)
  rw [writes]
  obtain ⟨r, rfl⟩ | reserved := slot_cases slot
  · cases r with
    | cmd => exact absurd rfl notCmd
    | _ => rfl
  · fin_cases reserved <;> rfl

/-- Settles O8: the bits of `STATUS` and `STICKY` that a read masks are 0 already under the invariant. -/
theorem registerReadReturnsItsRegister : Obligations.RegisterReadReturnsItsRegister := by
  unfold Obligations.RegisterReadReturnsItsRegister
  rintro s slot rest sent ⟨_, _, statusInv, stickyInv⟩
  refine ⟨readSlot s slot, step_event sent, ?_⟩
  obtain ⟨r, rfl⟩ | reserved := slot_cases slot
  · rw [readSlot_slot]
    cases r <;>
      simp [Reg.slot, readReg, zext64, and_statusMask_of_legal statusInv, and_stickyMask_of_legal stickyInv]
  · rw [readSlot_of_reserved reserved]
    fin_cases reserved <;> simp

/-- Settles O9. -/
theorem idleAndHostStore : Obligations.IdleAndHostStore := by
  unfold Obligations.IdleAndHostStore
  refine ⟨fun s idle => step_idle idle, fun s a b rest sent => ?_⟩
  refine ⟨_, step_event sent, rfl, ?_, fun x outside => ?_⟩
  · exact Memory.read_writeBytes_inside s.mem a.toNat [b] 0 (by simp)
  · exact Memory.read_writeBytes_outside s.mem a.toNat [b] x outside

/-- Settles O11. -/
theorem resetClearsEveryRegister : Obligations.ResetClearsEveryRegister := by
  unfold Obligations.ResetClearsEveryRegister
  refine ⟨readSlot_clearRegisters State.reset, rfl, rfl, rfl, fun s rest sent => ?_⟩
  exact ⟨_, step_event sent, readSlot_clearRegisters _, rfl⟩

end Sys2Proof.Proofs
end

section
/-!
PROOFS. What a command reads and writes (20_memory.md R66, R67): on every memory that agrees with the given one in the source window it
has one and the same effect, and that effect writes nowhere but in the writable window.
-/

namespace Sys2Proof.Machine

open Sys2Proof.Claims

/-! ### Another memory under the same registers -/

/-- `s` with its memory replaced. -/
def State.withMem (m : Memory) (s : State) : State := { s with mem := m }

@[simp] theorem State.withMem_src (m : Memory) (s : State) : (s.withMem m).src = s.src := rfl
@[simp] theorem State.withMem_srcLen (m : Memory) (s : State) : (s.withMem m).srcLen = s.srcLen := rfl
@[simp] theorem State.withMem_dst (m : Memory) (s : State) : (s.withMem m).dst = s.dst := rfl
@[simp] theorem State.withMem_mem (m : Memory) (s : State) : (s.withMem m).mem = m := rfl
@[simp] theorem State.withMem_self (s : State) : s.withMem s.mem = s := rfl
@[simp] theorem State.withMem_dstElements (m : Memory) (s : State) : (s.withMem m).dstElements = s.dstElements := rfl
@[simp] theorem transformFault_withMem (m : Memory) (s : State) : transformFault (s.withMem m) = transformFault s := rfl
@[simp] theorem declenFault_withMem (m : Memory) (s : State) : declenFault (s.withMem m) = declenFault s := rfl
@[simp] theorem encFault_withMem (x : Codec) (m : Memory) (s : State) : encFault x (s.withMem m) = encFault x s := rfl
@[simp] theorem decFault_withMem (m : Memory) (s : State) : decFault (s.withMem m) = decFault s := rfl

/-- Two memories hold the same bytes in a window; in no window they need not. -/
def AgreeIn (w : Option Window) (m m' : Memory) : Prop := ∀ v a, w = some v → v.covers a = true → m.read a = m'.read a

theorem AgreeIn.refl (w : Option Window) (m : Memory) : AgreeIn w m m := fun _ _ _ _ => rfl

theorem AgreeIn.readBytes_eq {m m' : Memory} {a n : Nat} (h : AgreeIn (some ⟨a, n⟩) m m') :
    m.readBytes a n = m'.readBytes a n :=
  Memory.readBytes_congr fun i hi => h _ _ rfl (by simp [hi])

theorem Memory.readWords_congr {m m' : Memory} {a n : Nat} (h : ∀ i < 4 * n, m.read (a + i) = m'.read (a + i)) :
    m.readWords a n = m'.readWords a n := by
  induction n generalizing a with
  | zero => rfl
  | succ n ih =>
    have first : m.readBytes a 4 = m'.readBytes a 4 := Memory.readBytes_congr fun i hi => h i (by omega)
    have others : m.readWords (a + 4) n = m'.readWords (a + 4) n := ih fun i hi => by
      simpa [Nat.add_assoc] using h (4 + i) (by omega)
    simp only [Memory.readWords, Memory.readU32, first, others]

theorem AgreeIn.readWords_eq {m m' : Memory} {a n : Nat} (h : AgreeIn (some ⟨a, 4 * n⟩) m m') :
    m.readWords a n = m'.readWords a n :=
  Memory.readWords_congr fun i hi => h _ _ rfl (by simp [hi])

/-! ### Where an effect writes -/

/-- An effect writes to memory only in this window; with no window, not at all. -/
def Effect.Within (w : Option Window) : Effect → Prop
  | .fault _ | .complete _ _ | .vector _ => True
  | .corrupt v => w = some v
  | .write a bs _ _ => ∃ size, w = some ⟨a, size⟩ ∧ bs.length ≤ size

theorem Effect.apply_sameOutside {e : Effect} {w : Window} (h : e.Within (some w)) (s : State) :
    SameOutside w.base w.size s (e.apply s) := by
  intro a outside
  cases e with
  | fault c => rfl
  | complete result consumed => rfl
  | vector v => rfl
  | corrupt v =>
    cases h
    exact Memory.read_writeBytes_outside s.mem _ _ a (by rwa [freeBytes_length])
  | write b bs result consumed =>
    obtain ⟨size, window, fits⟩ := h
    cases window
    exact Memory.read_writeBytes_outside s.mem b bs a (by simp only at outside; omega)

theorem Effect.apply_mem_of_within_none {e : Effect} (h : e.Within none) (s : State) : (e.apply s).mem = s.mem := by
  cases e with
  | fault c => rfl
  | complete result consumed => rfl
  | vector v => rfl
  | corrupt v => cases h
  | write a bs result consumed => obtain ⟨_, window, _⟩ := h; cases window

theorem Effect.apply_withMem (e : Effect) (m : Memory) (s : State) :
    e.apply (s.withMem m) = (e.apply s).withMem (e.apply (s.withMem m)).mem := by
  cases e <;> rfl

/-- The same bytes stored in two memories: an address has the byte stored, or what each memory held before. -/
theorem Memory.read_writeBytes_same_or_kept (m m' : Memory) (a : Nat) (bs : List Byte) (x : Nat) :
    (m.writeBytes a bs).read x = (m'.writeBytes a bs).read x ∨
      ((m.writeBytes a bs).read x = m.read x ∧ (m'.writeBytes a bs).read x = m'.read x) := by
  by_cases inside : a ≤ x ∧ x < a + bs.length
  · obtain ⟨i, rfl⟩ := Nat.exists_eq_add_of_le inside.1
    have hi : i < bs.length := by omega
    exact .inl (by rw [Memory.read_writeBytes_inside _ _ _ _ hi, Memory.read_writeBytes_inside _ _ _ _ hi])
  · exact .inr ⟨Memory.read_writeBytes_outside _ _ _ _ (by omega), Memory.read_writeBytes_outside _ _ _ _ (by omega)⟩

theorem Effect.apply_read_same_or_kept (e : Effect) (m : Memory) (s : State) (a : Nat) :
    (e.apply (s.withMem m)).mem.read a = (e.apply s).mem.read a ∨
      ((e.apply (s.withMem m)).mem.read a = m.read a ∧ (e.apply s).mem.read a = s.mem.read a) := by
  cases e with
  | fault c => exact .inr ⟨rfl, rfl⟩
  | complete result consumed => exact .inr ⟨rfl, rfl⟩
  | vector v => exact .inr ⟨rfl, rfl⟩
  | corrupt w => exact Memory.read_writeBytes_same_or_kept m s.mem w.base (freeBytes s.draws w.size) a
  | write b bs result consumed => exact Memory.read_writeBytes_same_or_kept m s.mem b bs a

/-! ### The windows of each shared operation -/

/-- `run` has one effect on every memory that agrees with that of `s` in `sw`, and that effect writes only in `dw`. -/
def WindowedEffect (sw dw : Option Window) (run : State → State) (s : State) : Prop :=
  ∃ e : Effect, e.Within dw ∧ ∀ m, AgreeIn sw m s.mem → run (s.withMem m) = e.apply (s.withMem m)

theorem vectorResult_windowed (sw dw : Option Window) (f : Vec → Vec → Vec) (s : State) :
    WindowedEffect sw dw (fun t => t.vectorResult (f t.va t.vb)) s :=
  ⟨.vector (f s.va s.vb), trivial, fun _ _ => rfl⟩

theorem runBlockSize_windowed (sw dw : Option Window) (x : Codec) (s : State) :
    WindowedEffect sw dw (runBlockSize x) s :=
  ⟨.complete x.blockSize 0, trivial, fun _ _ => rfl⟩

theorem runMaxLen_windowed (sw dw : Option Window) (x : Codec) (s : State) : WindowedEffect sw dw (runMaxLen x) s := by
  by_cases large : 2 ^ 64 ≤ x.maxLen s.srcLen.toNat
  · exact ⟨.fault .operandRange, trivial, fun _ _ => if_pos large⟩
  · exact ⟨.complete (x.maxLen s.srcLen.toNat) 0, trivial, fun _ _ => if_neg large⟩

theorem runTransform_windowed {f : List Word → List Word} (hf : ∀ xs, (f xs).length = xs.length) (s : State) :
    WindowedEffect (some s.srcElements) (some s.srcElements) (runTransform f) s := by
  cases check : transformFault s with
  | some c => exact ⟨.fault c, trivial, fun _ _ => by simp [runTransform, check, Effect.apply]⟩
  | none =>
    refine ⟨.write s.src.toNat (bytesOf (f (s.mem.readWords s.src.toNat s.srcLen.toNat))) s.srcLen.toNat s.srcLen.toNat,
      ⟨_, rfl, by simp [hf]⟩, fun m agree => ?_⟩
    simp [runTransform, check, Effect.apply, State.storeWords_eq_storeBytes, agree.readWords_eq]

theorem runDeclen_windowed (x : Codec) (dw : Option Window) (s : State) :
    WindowedEffect (some s.srcBytes) dw (runDeclen x) s := by
  cases check : declenFault s with
  | some c => exact ⟨.fault c, trivial, fun _ _ => by simp [runDeclen, check, Effect.apply]⟩
  | none =>
    cases header : x.decLen (s.mem.readBytes s.src.toNat s.srcLen.toNat) with
    | none =>
      exact ⟨.fault .truncated, trivial, fun _ agree => by
        simp [runDeclen, check, agree.readBytes_eq, header, Effect.apply]⟩
    | some p =>
      exact ⟨.complete p.1 p.2, trivial, fun _ agree => by
        simp [runDeclen, check, agree.readBytes_eq, header, Effect.apply]⟩

theorem runEnc_windowed {x : Codec} (hx : x.Bounded) (s : State) :
    WindowedEffect (some s.srcElements) (some s.dstBytes) (runEnc x) s := by
  cases check : encFault x s with
  | some c => exact ⟨.fault c, trivial, fun _ _ => by simp [runEnc, check, Effect.apply]⟩
  | none =>
    have fits : (encOutput x s).length ≤ s.dstCap.toNat := by
      have bound := hx.1 (s.mem.readWords s.src.toNat s.srcLen.toNat)
      rw [Memory.readWords_length] at bound
      exact bound.trans (maxLen_le_of_encFault check)
    refine ⟨.write s.dst.toNat (encOutput x s) (encOutput x s).length s.srcLen.toNat, ⟨_, rfl, fits⟩, fun m agree => ?_⟩
    have output : encOutput x (s.withMem m) = encOutput x s := congrArg x.encode agree.readWords_eq
    simp [runEnc, check, output, Effect.apply]

theorem runDec_windowed {x : Codec} (hx : x.Bounded) (s : State) :
    WindowedEffect (some s.srcBytes) (some s.dstElements) (runDec x) s := by
  cases check : decFault s with
  | some c => exact ⟨.fault c, trivial, fun _ _ => by simp [runDec, check, Effect.apply]⟩
  | none =>
    have output : ∀ m, AgreeIn (some s.srcBytes) m s.mem → decOutput x (s.withMem m) = decOutput x s :=
      fun m agree => congrArg (x.decode · s.dstCap.toNat) agree.readBytes_eq
    cases decodes : decOutput x s with
    | none =>
      exact ⟨.corrupt s.dstElements, rfl, fun m agree => by simp [runDec, check, output m agree, decodes, Effect.apply]⟩
    | some p =>
      have room : p.1.length ≤ s.dstCap.toNat := hx.2 _ _ _ _ decodes
      have fits : (bytesOf p.1).length ≤ 4 * s.dstCap.toNat := by
        rw [bytesOf_length]
        omega
      exact ⟨.write s.dst.toNat (bytesOf p.1) p.1.length p.2, ⟨_, rfl, fits⟩, fun m agree => by
        simp [runDec, check, output m agree, decodes, Effect.apply, State.storeWords_eq_storeBytes]⟩

/-! ### The windows of each command -/

/-- Every command reads within its source window and writes within its writable window. -/
theorem exec_windowed (i : Instr) : ∃ run, (∀ s, exec i s = .next (run s)) ∧
    ∀ s, WindowedEffect (sourceWindow i s) (writableWindow i s) run s := by
  cases i with
  | lshl k => exact ⟨_, fun _ => rfl, vectorResult_windowed _ _ fun va _ => shlBytes va k⟩
  | lshr k => exact ⟨_, fun _ => rfl, vectorResult_windowed _ _ fun va _ => shrBytes va k⟩
  | vdelta1 => exact ⟨_, fun _ => rfl, vectorResult_windowed _ _ delta1V⟩
  | vpsum1 => exact ⟨_, fun _ => rfl, vectorResult_windowed _ _ psum1V⟩
  | vdelta4 => exact ⟨_, fun _ => rfl, vectorResult_windowed _ _ delta4V⟩
  | vundelta4 => exact ⟨_, fun _ => rfl, vectorResult_windowed _ _ undelta4V⟩
  | vmaxbits => exact ⟨_, fun _ => rfl, fun s => ⟨.complete (maxBits s.va) 0, trivial, fun _ _ => rfl⟩⟩
  | delta1 => exact ⟨_, fun _ => rfl, runTransform_windowed delta1_length⟩
  | undelta1 => exact ⟨_, fun _ => rfl, runTransform_windowed undelta1_length⟩
  | delta4 => exact ⟨_, fun _ => rfl, runTransform_windowed delta4_length⟩
  | undelta4 => exact ⟨_, fun _ => rfl, runTransform_windowed undelta4_length⟩
  | prefixsum => exact ⟨_, fun _ => rfl, runTransform_windowed prefixSum_length⟩
  | bpBlocksize => exact ⟨_, fun _ => rfl, runBlockSize_windowed _ _ bp⟩
  | svbBlocksize => exact ⟨_, fun _ => rfl, runBlockSize_windowed _ _ svb⟩
  | compBlocksize => exact ⟨_, fun _ => rfl, runBlockSize_windowed _ _ comp⟩
  | bpMaxlen => exact ⟨_, fun _ => rfl, runMaxLen_windowed _ _ bp⟩
  | svbMaxlen => exact ⟨_, fun _ => rfl, runMaxLen_windowed _ _ svb⟩
  | compMaxlen => exact ⟨_, fun _ => rfl, runMaxLen_windowed _ _ comp⟩
  | bpDeclen => exact ⟨_, fun _ => rfl, runDeclen_windowed bp _⟩
  | svbDeclen => exact ⟨_, fun _ => rfl, runDeclen_windowed svb _⟩
  | compDeclen => exact ⟨_, fun _ => rfl, runDeclen_windowed comp _⟩
  | bpEnc => exact ⟨_, fun _ => rfl, runEnc_windowed bp_bounded⟩
  | svbEnc => exact ⟨_, fun _ => rfl, runEnc_windowed svb_bounded⟩
  | compEnc => exact ⟨_, fun _ => rfl, runEnc_windowed comp_bounded⟩
  | bpDec => exact ⟨_, fun _ => rfl, runDec_windowed bp_bounded⟩
  | svbDec => exact ⟨_, fun _ => rfl, runDec_windowed svb_bounded⟩
  | compDec => exact ⟨_, fun _ => rfl, runDec_windowed comp_bounded⟩

/-- What a command does on one state and on all that differ from it only in memory outside the source window. -/
theorem exec_cases_withMem (i : Instr) (s : State) : ∃ e : Effect, e.Within (writableWindow i s) ∧
    ∀ m, AgreeIn (sourceWindow i s) m s.mem → exec i (s.withMem m) = .next (e.apply (s.withMem m)) := by
  obtain ⟨run, runs, effects⟩ := exec_windowed i
  obtain ⟨e, within, applies⟩ := effects s
  exact ⟨e, within, fun m agree => (runs _).trans (congrArg Host.Outcome.next (applies m agree))⟩

theorem exec_cases_within (i : Instr) (s : State) :
    ∃ e : Effect, e.Within (writableWindow i s) ∧ exec i s = .next (e.apply s) := by
  obtain ⟨e, within, applies⟩ := exec_cases_withMem i s
  exact ⟨e, within, applies s.mem (.refl _ _)⟩

theorem exec_sameOutside {i : Instr} {s t : State} {w : Window} (hw : writableWindow i s = some w)
    (runs : exec i s = .next t) : SameOutside w.base w.size s t := by
  obtain ⟨e, within, applies⟩ := exec_cases_within i s
  cases applies.symm.trans runs
  rw [hw] at within
  exact e.apply_sameOutside within s

theorem exec_mem_of_no_window {i : Instr} {s t : State} (hw : writableWindow i s = none)
    (runs : exec i s = .next t) : t.mem = s.mem := by
  obtain ⟨e, within, applies⟩ := exec_cases_within i s
  cases applies.symm.trans runs
  rw [hw] at within
  exact e.apply_mem_of_within_none within s

/-- Only an `ENC`, a `DEC` or a transform has a writable window (20_memory.md R66, R67). -/
theorem writableWindow_eq_none {i : Instr} (s : State)
    (h : i ∉ [.bpEnc, .svbEnc, .compEnc, .bpDec, .svbDec, .compDec, .delta1, .undelta1, .delta4, .undelta4, .prefixsum]) :
    writableWindow i s = none := by
  cases i with
  | bpEnc | svbEnc | compEnc | bpDec | svbDec | compDec | delta1 | undelta1 | delta4 | undelta4 | prefixsum => simp at h
  | _ => rfl

end Sys2Proof.Machine
end

section
/-!
PROOFS. The statements about the windows of a command (20_memory.md R67).
-/

namespace Sys2Proof.Proofs

open Sys2Proof.Machine

/-- Settles O17: the effect of a command writes within the writable window, which each family declares from its own registers. -/
theorem writesStayInTheWindow : Obligations.WritesStayInTheWindow := by
  unfold Obligations.WritesStayInTheWindow
  intro i s t runs
  refine ⟨fun enc => ?_, fun dec => ?_, fun transform => ?_, fun other => ?_⟩
  · have window : writableWindow i s = some s.dstBytes := by fin_cases enc <;> rfl
    exact exec_sameOutside window runs
  · have window : writableWindow i s = some s.dstElements := by fin_cases dec <;> rfl
    exact exec_sameOutside window runs
  · have window : writableWindow i s = some s.srcElements := by fin_cases transform <;> rfl
    exact exec_sameOutside window runs
  · exact exec_mem_of_no_window (writableWindow_eq_none s other) runs

/-- Settles O18: memories that agree in the source window get the same effect, and an effect stores the same bytes in both. -/
theorem readsStayInTheWindow : Obligations.ReadsStayInTheWindow := by
  unfold Obligations.ReadsStayInTheWindow
  intro i s m agree
  obtain ⟨e, _, applies⟩ := exec_cases_withMem i s
  exact ⟨e.apply s, e.apply (s.withMem m), applies s.mem (.refl _ _), applies m agree, e.apply_withMem m s,
    e.apply_read_same_or_kept m s⟩

end Sys2Proof.Proofs
end

section
/-!
PROOFS. A `BP` stream byte by byte (43_block_codec.md R197, 30_encoding.md R102 to R106): the count, then superblock after superblock,
each a header of width bytes and the packed data of its miniblocks.
-/

namespace Sys2Proof.Machine

open Sys2Proof.Claims

/-! ### Where a part of a sequence lies -/

/-- `t` stands in `s` from position `p` on. -/
def LiesAt {α : Type} (t s : List α) (p : Nat) : Prop := t <+: s.drop p

theorem LiesAt.take_drop_eq {α : Type} {t s : List α} {p : Nat} (h : LiesAt t s p) : (s.drop p).take t.length = t :=
  (List.prefix_iff_eq_take.mp h).symm

theorem LiesAt.getD_eq {α : Type} {t s : List α} {p i : Nat} (h : LiesAt t s p) (hi : i < t.length) (default : α) :
    s.getD (p + i) default = t.getD i default := by
  rw [← h.take_drop_eq]
  simp [List.getD_eq_getElem?_getD, hi]

theorem LiesAt.trans {α : Type} {u t s : List α} {p q : Nat} (hu : LiesAt u t q) (ht : LiesAt t s p) :
    LiesAt u s (p + q) := by
  have moved : t.drop q <+: (s.drop p).drop q := ht.drop q
  rw [List.drop_drop] at moved
  exact List.IsPrefix.trans hu moved

theorem liesAt_append_right {α : Type} (t u : List α) : LiesAt u (t ++ u) t.length := by
  simp [LiesAt]

theorem LiesAt.left {α : Type} {t u s : List α} {p : Nat} (h : LiesAt (t ++ u) s p) : LiesAt t s p :=
  (List.prefix_append t u).trans h

theorem LiesAt.right {α : Type} {t u s : List α} {p : Nat} (h : LiesAt (t ++ u) s p) : LiesAt u s (p + t.length) :=
  (liesAt_append_right t u).trans h

/-- A part of a concatenation lies behind all the parts before it. -/
theorem liesAt_flatMap_range {α : Type} (f : Nat → List α) {k n : Nat} (h : k < n) :
    LiesAt (f k) ((List.range n).flatMap f) ((List.range k).flatMap f).length := by
  obtain ⟨r, rfl⟩ := Nat.exists_eq_add_of_le (Nat.succ_le_of_lt h)
  simp [LiesAt, List.range_add, List.range_succ, List.append_assoc]

/-! ### Groups of a sequence -/

theorem chunk_eq_map_range {α : Type} (size count : Nat) (xs : List α) :
    chunk size count xs = (List.range count).map fun k => (xs.drop (size * k)).take size := by
  induction count generalizing xs with
  | zero => rfl
  | succ count ih =>
    simp [chunk, ih, List.range_succ_eq_map, Function.comp_def, List.drop_drop, Nat.mul_succ, Nat.add_comm]

theorem take_drop_map_range {α : Type} (f : Nat → α) (m a n : Nat) :
    (((List.range m).map f).drop a).take n = (List.range (min n (m - a))).map fun q => f (a + q) :=
  List.ext_getElem (by simp) (by simp)

/-! ### The header of a superblock -/

theorem bytesOf_getD (xs : List Word) {t i : Nat} (ht : t < xs.length) (hi : i < 4) :
    (bytesOf xs).getD (4 * t + i) 0 = (le32 (xs.getD t 0)).getD i 0 := by
  induction xs generalizing t with
  | nil => cases ht
  | cons x xs ih =>
    have split : bytesOf (x :: xs) = le32 x ++ bytesOf xs := rfl
    rw [split]
    cases t with
    | zero => rw [Nat.mul_zero, Nat.zero_add, List.getD_append _ _ _ _ hi, List.getD_cons_zero]
    | succ t =>
      rw [List.getD_append_right _ _ _ _ (by simp; omega), le32_length, List.getD_cons_succ,
        ← ih (Nat.lt_of_succ_lt_succ ht)]
      congr 1
      omega

theorem le32_ofNat {n : Nat} (h : n < 2 ^ 32) :
    le32 (BitVec.ofNat 32 n) =
      [BitVec.ofNat 8 n, BitVec.ofNat 8 (n / 2 ^ 8), BitVec.ofNat 8 (n / 2 ^ 16), BitVec.ofNat 8 (n / 2 ^ 24)] := by
  have byte : ∀ start, (BitVec.ofNat 32 n).extractLsb' start 8 = BitVec.ofNat 8 (n / 2 ^ start) := fun start => by
    rw [BitVec.extractLsb', BitVec.toNat_ofNat, Nat.mod_eq_of_lt h, Nat.shiftRight_eq_div_pow]
  simp only [le32, byte, Nat.pow_zero, Nat.div_one]

/-- The first of four widths is in the most significant byte of a header word, so the last in memory (30_encoding.md R103). -/
theorem le32_headerWord {ws : List Nat} (small : ∀ j, ws.getD j 0 < 256) :
    le32 (headerWord ws) = [BitVec.ofNat 8 (ws.getD 3 0), BitVec.ofNat 8 (ws.getD 2 0), BitVec.ofNat 8 (ws.getD 1 0),
      BitVec.ofNat 8 (ws.getD 0 0)] := by
  have h0 := small 0
  have h1 := small 1
  have h2 := small 2
  have h3 := small 3
  have byte_congr {y z : Nat} (h : y % 256 = z % 256) : BitVec.ofNat 8 y = BitVec.ofNat 8 z :=
    BitVec.eq_of_toNat_eq (by simpa only [BitVec.toNat_ofNat] using h)
  rw [headerWord, le32_ofNat (by omega)]
  simp only [List.cons.injEq, and_true]
  exact ⟨byte_congr (by omega), byte_congr (by omega), byte_congr (by omega), byte_congr (by omega)⟩

theorem le32_headerWord_getD {ws : List Nat} (small : ∀ j, ws.getD j 0 < 256) {j : Nat} (hj : j < 4) :
    (le32 (headerWord ws)).getD (3 - j) 0 = BitVec.ofNat 8 (ws.getD j 0) := by
  rw [le32_headerWord small]
  match j, hj with
  | 0, _ | 1, _ | 2, _ | 3, _ => rfl

theorem headerWords_getD {ws : List Nat} {t : Nat} (ht : t < ceilDiv ws.length 4) :
    (headerWords ws).getD t 0 = headerWord ((ws.drop (4 * t)).take 4) := by
  simp [headerWords, chunk_eq_map_range, List.getD_eq_getElem?_getD, ht]

theorem take_drop_getD {α : Type} (xs : List α) (a : Nat) {n j : Nat} (hj : j < n) (default : α) :
    ((xs.drop a).take n).getD j default = xs.getD (a + j) default := by
  simp [List.getD_eq_getElem?_getD, hj]

/-- The width byte of slot `q`, 0 where the slot is unused (30_encoding.md R103, R104). -/
theorem bytesOf_headerWords_getD {ws : List Nat} (small : ∀ j, ws.getD j 0 < 256) {q : Nat}
    (hq : q < 4 * ceilDiv ws.length 4) :
    (bytesOf (headerWords ws)).getD (4 * (q / 4) + (3 - q % 4)) 0 = BitVec.ofNat 8 (ws.getD q 0) := by
  have word : q / 4 < ceilDiv ws.length 4 := by omega
  have slot : q % 4 < 4 := Nat.mod_lt q (by decide)
  have group : ∀ j, ((ws.drop (4 * (q / 4))).take 4).getD j 0 < 256 := fun j => by
    by_cases hj : j < 4
    · rw [take_drop_getD _ _ hj]
      exact small _
    · rw [List.getD_eq_default _ _ (by simp; omega)]
      decide
  calc (bytesOf (headerWords ws)).getD (4 * (q / 4) + (3 - q % 4)) 0
    _ = (le32 (headerWord ((ws.drop (4 * (q / 4))).take 4))).getD (3 - q % 4) 0 := by
      rw [bytesOf_getD _ (by rwa [headerWords_length]) (by omega), headerWords_getD word]
    _ = BitVec.ofNat 8 (ws.getD q 0) := by
      rw [le32_headerWord_getD group slot, take_drop_getD _ _ slot, Nat.div_add_mod]

/-! ### A superblock -/

theorem bpDataBytes_add (w : Nat → Nat) (a r : Nat) :
    bpDataBytes w (a + r) = bpDataBytes w a + bpDataBytes (fun q => w (a + q)) r := by
  simp [bpDataBytes, List.range_add, Nat.mul_add, Function.comp_def]

/-- The packed data of miniblock `k` of an input (43_block_codec.md R197). -/
def packedBlock (x : List Word) (k : Nat) : List Byte := bytesOf (pack (block x k) (blockWidth x k))

@[simp] theorem packedBlock_length (x : List Word) (k : Nat) : (packedBlock x k).length = 16 * blockWidth x k := by
  rw [packedBlock, bytesOf_length, pack_length, ← Nat.mul_assoc]

theorem packedBlocks_length (x : List Word) (a r : Nat) :
    ((List.range r).flatMap fun q => packedBlock x (a + q)).length = bpDataBytes (fun q => blockWidth x (a + q)) r := by
  induction r with
  | zero => rfl
  | succ r ih =>
    rw [bpDataBytes_add, ← ih]
    simp [List.range_succ]

/-- The widths of the miniblocks of superblock `g` of an input of `m` miniblocks. -/
def superblockWidths (x : List Word) (m g : Nat) : List Nat :=
  (List.range (min 16 (m - 16 * g))).map fun q => blockWidth x (16 * g + q)

@[simp] theorem superblockWidths_length (x : List Word) (m g : Nat) :
    (superblockWidths x m g).length = min 16 (m - 16 * g) := by
  simp [superblockWidths]

theorem superblockWidths_getD (x : List Word) (m g q : Nat) :
    (superblockWidths x m g).getD q 0 = if q < min 16 (m - 16 * g) then blockWidth x (16 * g + q) else 0 := by
  by_cases hq : q < min 16 (m - 16 * g) <;> simp [superblockWidths, List.getD_eq_getElem?_getD, hq]

theorem superblockWidths_lt (x : List Word) (m g q : Nat) : (superblockWidths x m g).getD q 0 < 256 := by
  rw [superblockWidths_getD]
  split
  · exact Nat.lt_of_le_of_lt (bpWidth_le _) (by decide)
  · decide

/-- Superblock `g` of an input of `m` miniblocks: its header, then the packed data of its miniblocks (43_block_codec.md R197). -/
def superblock (x : List Word) (m g : Nat) : List Byte :=
  bytesOf (headerWords (superblockWidths x m g)) ++
    (List.range (min 16 (m - 16 * g))).flatMap fun q => packedBlock x (16 * g + q)

theorem bpSuperblock_eq (x : List Word) (m g : Nat) :
    bpSuperblock ((List.range (min 16 (m - 16 * g))).map fun q => block x (16 * g + q)) = superblock x m g := by
  simp [bpSuperblock, superblock, superblockWidths, packedBlock, bpWidth, List.flatMap_map, Function.comp_def]

theorem superblock_header_length (x : List Word) (m g : Nat) :
    (bytesOf (headerWords (superblockWidths x m g))).length = 4 * ((min 16 (m - 16 * g) + 3) / 4) := by
  simp [ceilDiv]

theorem superblock_length (x : List Word) (m g : Nat) :
    (superblock x m g).length =
      4 * ((min 16 (m - 16 * g) + 3) / 4) + bpDataBytes (fun q => blockWidth x (16 * g + q)) (min 16 (m - 16 * g)) := by
  rw [superblock, List.length_append, superblock_header_length, packedBlocks_length]

/-! ### The whole stream -/

theorem bpEncode_eq {x : List Word} {m : Nat} (hx : x.length = 128 * m) :
    bpEncode x = le32 (BitVec.ofNat 32 x.length) ++ (List.range ((m + 15) / 16)).flatMap (superblock x m) := by
  have blocks : chunk 128 (x.length / 128) (delta4 x) = (List.range m).map (block x) := by
    rw [chunk_eq_map_range, hx, Nat.mul_div_cancel_left m (by decide)]
  have count : ceilDiv m 16 = (m + 15) / 16 := rfl
  rw [bpEncode, blocks, chunk_eq_map_range, List.flatMap_map, hx, Nat.mul_div_cancel_left m (by decide), count]
  simp only [take_drop_map_range, bpSuperblock_eq]

/-- The superblocks before superblock `g`: `ceil(r/4)` header words for the `r` miniblocks they hold, and their packed data
(30_encoding.md R103, R106). -/
theorem superblocks_length (x : List Word) (m g : Nat) :
    ((List.range g).flatMap (superblock x m)).length =
      4 * ((min m (16 * g) + 3) / 4) + bpDataBytes (blockWidth x) (min m (16 * g)) := by
  induction g with
  | zero => simp
  | succ g ih =>
    rw [List.range_succ, List.flatMap_append, List.length_append, ih, List.flatMap_singleton, superblock_length]
    rcases Nat.lt_or_ge m (16 * g) with past | here
    · rw [show min 16 (m - 16 * g) = 0 by omega, show min m (16 * (g + 1)) = min m (16 * g) by omega]
      simp
    · rw [show min m (16 * (g + 1)) = 16 * g + min 16 (m - 16 * g) by omega, Nat.min_eq_right here, bpDataBytes_add]
      omega

theorem bpEncode_length {x : List Word} {m : Nat} (hx : x.length = 128 * m) :
    (bpEncode x).length = bpTotal (blockWidth x) m := by
  rw [bpEncode_eq hx, List.length_append, superblocks_length, le32_length, Nat.min_eq_left (by omega), bpTotal]
  omega

theorem superblock_liesAt {x : List Word} {m g : Nat} (hx : x.length = 128 * m) (hg : g < (m + 15) / 16) :
    LiesAt (superblock x m g) (bpEncode x) (bpHeaderAt (blockWidth x) g) := by
  have lies := (liesAt_flatMap_range (superblock x m) hg).trans
    (liesAt_append_right (le32 (BitVec.ofNat 32 x.length)) _)
  rw [← bpEncode_eq hx, superblocks_length, le32_length, Nat.min_eq_right (by omega)] at lies
  have position : 4 + (4 * ((16 * g + 3) / 4) + bpDataBytes (blockWidth x) (16 * g)) = bpHeaderAt (blockWidth x) g := by
    rw [bpHeaderAt]
    omega
  rwa [position] at lies

theorem packedBlock_liesAt {x : List Word} {m k : Nat} (hx : x.length = 128 * m) (hk : k < m) :
    LiesAt (packedBlock x k) (bpEncode x) (bpDataAt (blockWidth x) m k) := by
  have inData := liesAt_flatMap_range (fun q => packedBlock x (16 * (k / 16) + q))
    (show k % 16 < min 16 (m - 16 * (k / 16)) by omega)
  have lies := inData.trans (superblock_liesAt hx (show k / 16 < (m + 15) / 16 by omega)).right
  rw [superblock_header_length, packedBlocks_length, Nat.div_add_mod] at lies
  have before := bpDataBytes_add (blockWidth x) (16 * (k / 16)) (k % 16)
  rw [Nat.div_add_mod] at before
  have position : bpHeaderAt (blockWidth x) (k / 16) + 4 * ((min 16 (m - 16 * (k / 16)) + 3) / 4) +
      bpDataBytes (fun q => blockWidth x (16 * (k / 16) + q)) (k % 16) = bpDataAt (blockWidth x) m k := by
    rw [bpHeaderAt, bpDataAt, before]
    omega
  rwa [position] at lies

theorem bpEncode_width_byte {x : List Word} {m g q : Nat} (hx : x.length = 128 * m) (hg : g < (m + 15) / 16)
    (hq : q < 4 * ((min 16 (m - 16 * g) + 3) / 4)) :
    (bpEncode x).getD (bpWidthAt (blockWidth x) g q) 0 =
      if q < min 16 (m - 16 * g) then BitVec.ofNat 8 (blockWidth x (16 * g + q)) else 0 := by
  have header := (superblock_liesAt hx hg).left
  have inside : 4 * (q / 4) + (3 - q % 4) < (bytesOf (headerWords (superblockWidths x m g))).length := by
    rw [superblock_header_length]
    omega
  calc (bpEncode x).getD (bpWidthAt (blockWidth x) g q) 0
    _ = (bytesOf (headerWords (superblockWidths x m g))).getD (4 * (q / 4) + (3 - q % 4)) 0 := by
      rw [bpWidthAt, Nat.add_assoc, header.getD_eq inside]
    _ = BitVec.ofNat 8 ((superblockWidths x m g).getD q 0) :=
      bytesOf_headerWords_getD (superblockWidths_lt x m g) (by simpa [ceilDiv] using hq)
    _ = if q < min 16 (m - 16 * g) then BitVec.ofNat 8 (blockWidth x (16 * g + q)) else 0 := by
      rw [superblockWidths_getD]
      split <;> rfl

end Sys2Proof.Machine
end

section
/-!
PROOFS. The statement about the bytes of a `BP` stream (43_block_codec.md R197).
-/

namespace Sys2Proof.Proofs

open Sys2Proof.Machine

/-- Settles O43: the stream is the count and then superblock after superblock, and every part lies behind the lengths of those before. -/
theorem bpStreamBeginsWithCountAndWidths : Obligations.BpStreamBeginsWithCountAndWidths := by
  unfold Obligations.BpStreamBeginsWithCountAndWidths
  intro x m hx
  refine ⟨?_, fun g hg q hq => bpEncode_width_byte hx hg hq, fun k hk => ?_, bpEncode_length hx⟩
  · rw [bpEncode_eq hx]
    exact List.take_left' (le32_length _)
  · rw [← packedBlock_length]
    exact (packedBlock_liesAt hx hk).take_drop_eq

end Sys2Proof.Proofs
end

section
/-!
PROOFS. The decoder and the encoder (30_encoding.md R92 to R95): a word is its four fields, and it decodes to a command exactly when its
high bits are zero and the other three fields are those of the command's row.
-/

namespace Sys2Proof

/-! ### The fields of a word -/

theorem fieldFunc_eq (w : Word) : fieldFunc w = w.toNat % 16 := by
  simp [fieldFunc]

theorem fieldUnit_eq (w : Word) : fieldUnit w = w.toNat / 16 % 16 := by
  simp [fieldUnit, Nat.shiftRight_eq_div_pow]

theorem fieldK_eq (w : Word) : fieldK w = w.toNat / 256 % 16 := by
  simp [fieldK, Nat.shiftRight_eq_div_pow]

theorem fieldZero_eq (w : Word) : fieldZero w = w.toNat / 4096 := by
  simp only [fieldZero, BitVec.extractLsb'_toNat, Nat.shiftRight_eq_div_pow]
  omega

theorem commandWord_toNat {unit func k : Nat} (hu : unit < 16) (hf : func < 16) (hk : k < 16) :
    (commandWord unit func k).toNat = k * 256 + unit * 16 + func := by
  rw [commandWord, BitVec.toNat_ofNat]
  omega

/-- The four fields of a word put together from three (R92, R94). -/
theorem fields_commandWord {unit func k : Nat} (hu : unit < 16) (hf : func < 16) (hk : k < 16) :
    fieldZero (commandWord unit func k) = 0 ∧ fieldUnit (commandWord unit func k) = unit ∧
      fieldFunc (commandWord unit func k) = func ∧ fieldK (commandWord unit func k) = k := by
  rw [fieldZero_eq, fieldUnit_eq, fieldFunc_eq, fieldK_eq, commandWord_toNat hu hf hk]
  omega

/-- A word with its high bits zero is put together from its other three fields (R92, R94). -/
theorem commandWord_fields {w : Word} (zero : fieldZero w = 0) :
    commandWord (fieldUnit w) (fieldFunc w) (fieldK w) = w := by
  rw [fieldZero_eq] at zero
  refine BitVec.eq_of_toNat_eq ?_
  rw [commandWord_toNat] <;> simp only [fieldUnit_eq, fieldFunc_eq, fieldK_eq] <;> omega

/-! ### The rows of the command map -/

/-- The command map gives the fields `unit`, `func` and `k` to command `i`, and that `k` is legal there (R93 to R95). -/
structure IsRow (i : Instr) (unit func k : Nat) : Prop where
  row : commandMap unit func k = some i
  fits : k < 16
  count : k = 0 ∨ takesCount unit func = true

theorem commandMap_bounds {unit func k : Nat} {i : Instr} (h : commandMap unit func k = some i) :
    unit < 16 ∧ func < 16 := by
  unfold commandMap at h
  split at h <;> cases h <;> decide

/-- The command map has exactly the pairs of R94. -/
theorem exists_commandMap_iff (unit func k : Nat) :
    (∃ i, commandMap unit func k = some i) ↔
      unit = 0 ∧ func ≤ 6 ∨ unit = 1 ∧ func ≤ 4 ∨ (unit = 2 ∨ unit = 3 ∨ unit = 4) ∧ func ≤ 4 := by
  constructor
  · rintro ⟨i, h⟩
    unfold commandMap at h
    split at h <;> cases h <;> decide
  · rintro (⟨rfl, hf⟩ | ⟨rfl, hf⟩ | ⟨rfl | rfl | rfl, hf⟩) <;> interval_cases func <;> exact ⟨_, rfl⟩

theorem takesCount_iff (unit func : Nat) : takesCount unit func = true ↔ unit = 0 ∧ func ≤ 1 := by
  simp only [takesCount, Bool.and_eq_true, Bool.or_eq_true, beq_iff_eq]
  omega

/-- Only the two lane shifts, the first rows of the map, have a count in their word. -/
theorem IsRow.encode_eq {i : Instr} {unit func k : Nat} (h : IsRow i unit func k) :
    encode i = commandWord unit func k := by
  obtain ⟨row, _, count⟩ := h
  unfold commandMap at row
  split at row <;> cases row
  · rfl
  · rfl
  all_goals
    obtain rfl : k = 0 := by simpa [takesCount] using count
    rfl

theorem IsRow.wellFormed {i : Instr} {unit func k : Nat} (h : IsRow i unit func k) : i.wellFormed = true := by
  obtain ⟨row, fits, _⟩ := h
  unfold commandMap at row
  split at row <;> cases row
  · exact decide_eq_true fits
  · exact decide_eq_true fits
  all_goals rfl

/-- The word of a row has the fields of that row. -/
theorem IsRow.fields_encode {i : Instr} {unit func k : Nat} (h : IsRow i unit func k) :
    fieldZero (encode i) = 0 ∧ IsRow i (fieldUnit (encode i)) (fieldFunc (encode i)) (fieldK (encode i)) := by
  obtain ⟨unitFits, funcFits⟩ := commandMap_bounds h.row
  obtain ⟨zero, unit_eq, func_eq, k_eq⟩ := fields_commandWord unitFits funcFits h.fits
  rw [h.encode_eq, unit_eq, func_eq, k_eq]
  exact ⟨zero, h⟩

/-- Every well-formed command has a row. -/
theorem isRow_encode {i : Instr} (h : i.wellFormed = true) :
    IsRow i (fieldUnit (encode i)) (fieldFunc (encode i)) (fieldK (encode i)) := by
  cases i with
  | lshl k => exact (IsRow.fields_encode (unit := 0) (func := 0) ⟨rfl, of_decide_eq_true h, .inr rfl⟩).2
  | lshr k => exact (IsRow.fields_encode (unit := 0) (func := 1) ⟨rfl, of_decide_eq_true h, .inr rfl⟩).2
  | _ => exact ⟨rfl, by decide, .inl rfl⟩

/-! ### The decoder -/

theorem fieldK_lt (w : Word) : fieldK w < 16 := BitVec.isLt _

/-- A word decodes to a command exactly when it passes the three tests of R95 with that command's row. -/
theorem decode_eq_ok_iff {w : Word} {i : Instr} :
    decode w = .ok i ↔ fieldZero w = 0 ∧ IsRow i (fieldUnit w) (fieldFunc w) (fieldK w) := by
  have stray : (fieldK w ≠ 0 && !takesCount (fieldUnit w) (fieldFunc w)) = true ↔
      ¬(fieldK w = 0 ∨ takesCount (fieldUnit w) (fieldFunc w) = true) := by simp
  constructor
  · intro h
    unfold decode at h
    split at h
    · cases h
    · next zero =>
      split at h
      · cases h
      · next row =>
        split at h
        · cases h
        · next legal =>
          cases h
          exact ⟨not_not.mp zero, row, fieldK_lt w, not_not.mp (mt stray.mpr legal)⟩
  · rintro ⟨zero, row, _, count⟩
    have legal := mt stray.mp (not_not.mpr count)
    simp only [decode, zero, row, if_neg legal, ne_eq, not_true_eq_false, if_false]

end Sys2Proof

namespace Sys2Proof.Machine

/-! ### The end of a command -/

/-- Fault entry with an illegal word (30_encoding.md R97). -/
theorem runCommand_of_illegal {v : DWord} (h : ∀ i, decode (v.setWidth 32) ≠ .ok i) (s : State) :
    runCommand v s = .next (State.raise .illegalCommand { s with cmd := v.setWidth 32 }) := by
  obtain ⟨_, _, illegal⟩ | ⟨i, decodes, _⟩ := runCommand_cases v s
  · exact illegal
  · exact absurd decodes (h i)

theorem Cause.number_mem_of_ofCommand {c : Cause} (h : c.ofCommand = true) : c.number ∈ [1, 3, 5, 6, 7, 8] := by
  cases c with
  | negativeValue | illegalCommand => cases h
  | _ => decide

end Sys2Proof.Machine

namespace Sys2Proof.Proofs

open Sys2Proof.Machine

/-- Settles O1: the fields of a well-formed command's word are its row. -/
theorem decodeOfEncode : Obligations.DecodeOfEncode := by
  unfold Obligations.DecodeOfEncode
  intro i wf
  exact decode_eq_ok_iff.mpr (isRow_encode wf).fields_encode

/-- Settles O2: the fields of a word that decodes are its command's row, and they make up the word. -/
theorem encodeOfDecode : Obligations.EncodeOfDecode := by
  unfold Obligations.EncodeOfDecode
  intro w i decodes
  obtain ⟨zero, row⟩ := decode_eq_ok_iff.mp decodes
  exact ⟨row.wellFormed, row.encode_eq.trans (commandWord_fields zero)⟩

/-- Settles O3: the three tests of the decoder, on the fields as numbers. -/
theorem legalWords : Obligations.LegalWords := by
  unfold Obligations.LegalWords
  intro w
  rw [← fieldZero_eq, ← fieldUnit_eq, ← fieldFunc_eq, ← fieldK_eq, ← takesCount_iff,
    ← exists_commandMap_iff (fieldUnit w) (fieldFunc w) (fieldK w)]
  constructor
  · rintro ⟨i, decodes⟩
    obtain ⟨zero, row, _, count⟩ := decode_eq_ok_iff.mp decodes
    exact ⟨zero, ⟨i, row⟩, count⟩
  · rintro ⟨zero, ⟨i, row⟩, count⟩
    exact ⟨i, decode_eq_ok_iff.mpr ⟨zero, row, fieldK_lt w, count⟩⟩

/-- Settles O4: each of the words is the encoding of its command. -/
theorem wordsOfTheMapDecode : Obligations.WordsOfTheMapDecode :=
  ⟨decodeOfEncode (.lshl 15) rfl, decodeOfEncode (.lshr 5) rfl, decodeOfEncode .vmaxbits rfl, decodeOfEncode .prefixsum rfl,
    decodeOfEncode .bpEnc rfl, decodeOfEncode .svbDec rfl, decodeOfEncode .compDeclen rfl⟩

/-- Settles O6: a word that decoded would be the word of a well-formed command. -/
theorem illegalWordRaisesIllegalCommand : Obligations.IllegalWordRaisesIllegalCommand := by
  unfold Obligations.IllegalWordRaisesIllegalCommand
  intro s v rest sent noCommand
  have illegal : ∀ i, decode (v.setWidth 32) ≠ .ok i := fun i decodes =>
    have ⟨wf, word⟩ := encodeOfDecode _ i decodes
    noCommand i wf word
  calc step s
    _ = runWrite 0 v { s with pending := rest } := step_event sent
    _ = runCommand v { s with pending := rest } := runWrite_cmd v _
    _ = .next (State.raise .illegalCommand { s with pending := rest, cmd := v.setWidth 32 }) :=
      runCommand_of_illegal illegal _

/-- Settles O13: two of the five effects are fault entry, with a cause that commands raise, and the others succeed. -/
theorem everyCommandSucceedsOrTakesFaultEntry : Obligations.EveryCommandSucceedsOrTakesFaultEntry := by
  unfold Obligations.EveryCommandSucceedsOrTakesFaultEntry
  intro i s
  obtain ⟨e, allowed, applies⟩ := exec_cases i s
  refine ⟨e.apply s, applies, ?_⟩
  cases e with
  | fault c => exact .inr ⟨c.number, Cause.number_mem_of_ofCommand allowed, rfl, fun _ => ⟨rfl, rfl⟩⟩
  | corrupt w => exact .inr ⟨3, by decide, rfl, fun notTruncated => absurd rfl notTruncated⟩
  | complete result consumed => exact .inl ⟨rfl, rfl⟩
  | vector v => exact .inl ⟨rfl, rfl⟩
  | write a bs result consumed => exact .inl ⟨rfl, rfl⟩

end Sys2Proof.Proofs
end

section
/-!
PROOFS. Where each bit of a delta lies in a packed miniblock (30_encoding.md R105): a lane's number holds its fields side by side, and
word `4t + j` is 32 bits of lane `j`'s.
-/

namespace Sys2Proof.Machine

/-- Bit `p` of field `i` is bit `bi + p` of the number, where no field is wider than `b` (43_block_codec.md R195). -/
theorem packFields_testBit {b : Nat} {fs : List Word} (small : ∀ f ∈ fs, f.toNat < 2 ^ b) (i : Nat) {p : Nat} (hp : p < b) :
    (packFields b fs).testBit (b * i + p) = (fs.getD i 0).getLsbD p := by
  induction fs generalizing i with
  | nil => simp [packFields]
  | cons f fs ih =>
    obtain ⟨first, others⟩ := List.forall_mem_cons.mp small
    rw [packFields, Nat.add_comm, Nat.testBit_two_pow_mul_add _ first]
    cases i with
    | zero => simp [hp, BitVec.testBit_toNat]
    | succ i =>
      have behind : b * (i + 1) + p = b + (b * i + p) := by rw [Nat.mul_succ]; omega
      rw [behind, if_neg (by omega), Nat.add_sub_cancel_left, ih others, List.getD_cons_succ]

theorem laneOf_getD (d : List Word) (j : Nat) {i : Nat} (hi : i < 32) : (laneOf d j).getD i 0 = d.getD (4 * i + j) 0 := by
  simp [laneOf, List.getD_eq_getElem?_getD, hi]

theorem getD_toNat_lt {d : List Word} {b : Nat} (small : ∀ x ∈ d, x.toNat < 2 ^ b) (i : Nat) :
    (d.getD i 0).toNat < 2 ^ b := by
  by_cases hi : i < d.length
  · rw [List.getD_eq_getElem _ _ hi]
    exact small _ (List.getElem_mem hi)
  · rw [List.getD_eq_default _ _ (Nat.le_of_not_lt hi)]
    exact Nat.two_pow_pos b

theorem laneOf_toNat_lt {d : List Word} {b : Nat} (small : ∀ x ∈ d, x.toNat < 2 ^ b) (j : Nat) :
    ∀ f ∈ laneOf d j, f.toNat < 2 ^ b := by
  simp only [laneOf, List.forall_mem_map]
  exact fun i _ => getD_toNat_lt small _

/-- Element `4t + j` of groups of four. -/
theorem flatMap_range_four_getD {α : Type} (g : Nat → Nat → α) {b t j : Nat} (ht : t < b) (hj : j < 4) (default : α) :
    ((List.range b).flatMap fun t => (List.range 4).map (g t)).getD (4 * t + j) default = g t j := by
  have lies := liesAt_flatMap_range (fun t => (List.range 4).map (g t)) ht
  have position : ((List.range t).flatMap fun t => (List.range 4).map (g t)).length = 4 * t := by simp [Nat.mul_comm]
  rw [position] at lies
  rw [lies.getD_eq (by simpa using hj)]
  simp [List.getD_eq_getElem?_getD, hj]

theorem pack_getD (d : List Word) {b t j : Nat} (ht : t < b) (hj : j < 4) :
    (pack d b).getD (4 * t + j) 0 = BitVec.ofNat 32 (packFields b (laneOf d j) >>> (32 * t)) :=
  flatMap_range_four_getD _ ht hj 0

end Sys2Proof.Machine

namespace Sys2Proof.Proofs

open Sys2Proof.Machine

/-- Settles O40: bit `p` of delta `4i + j` is bit `bi + p` of lane `j`'s number, of which the words of that lane hold 32 each. -/
theorem packedBitsAreVertical : Obligations.PackedBitsAreVertical := by
  unfold Obligations.PackedBitsAreVertical
  intro d b _ _ small
  refine ⟨pack_length d b, fun i hi j hj p hp => ?_⟩
  have inLane : b * i + p < 32 * b :=
    calc b * i + p
      _ < b * (i + 1) := by rw [Nat.mul_succ]; omega
      _ ≤ 32 * b := by rw [Nat.mul_comm 32]; exact Nat.mul_le_mul_left b hi
  have word : (b * i + p) / 32 < b := Nat.div_lt_of_lt_mul inLane
  have bit : (b * i + p) % 32 < 32 := Nat.mod_lt _ (by decide)
  rw [pack_getD d word hj, BitVec.getLsbD_ofNat, Nat.testBit_shiftRight, Nat.div_add_mod,
    packFields_testBit (laneOf_toNat_lt small j) i hp, laneOf_getD d j hi, decide_eq_true bit, Bool.true_and]

/-- Settles O42: the length that the superblocks of a stream add up to. -/
theorem bpStreamLength : Obligations.BpStreamLength := by
  unfold Obligations.BpStreamLength
  exact fun x m hx => bpEncode_length hx

end Sys2Proof.Proofs
end

section
/-!
PROOFS. An `SVB` stream byte by byte (30_encoding.md R107 to R109): the count, the key bytes with a code in each two bits, and the
records, each as long as its code says.
-/

namespace Sys2Proof.Machine

/-! ### Codes and key bytes -/

theorem svbCode_lt (delta : Word) : svbCode delta < 4 := by
  unfold svbCode
  split_ifs <;> decide

theorem svbKey_cons {c : Nat} (hc : c < 4) (cs : List Nat) : svbKey (c :: cs) = 4 * svbKey cs + c := by
  rw [svbKey, Nat.or_comm, ← Nat.shiftLeft_add_eq_or_of_lt hc, Nat.shiftLeft_eq]
  omega

theorem svbKey_lt {cs : List Nat} (small : ∀ c ∈ cs, c < 4) : svbKey cs < 4 ^ cs.length := by
  induction cs with
  | nil => decide
  | cons c cs ih =>
    obtain ⟨first, others⟩ := List.forall_mem_cons.mp small
    have := ih others
    rw [svbKey_cons first, List.length_cons, Nat.pow_succ]
    omega

/-- Digit `j` to base 4 of a key is code `j`, and 0 where there is none (30_encoding.md R108). -/
theorem svbKey_digit {cs : List Nat} (small : ∀ c ∈ cs, c < 4) (j : Nat) : svbKey cs / 4 ^ j % 4 = cs.getD j 0 := by
  induction cs generalizing j with
  | nil => simp [svbKey]
  | cons c cs ih =>
    obtain ⟨first, others⟩ := List.forall_mem_cons.mp small
    rw [svbKey_cons first]
    cases j with
    | zero =>
      rw [Nat.pow_zero, Nat.div_one, List.getD_cons_zero]
      omega
    | succ j =>
      rw [Nat.pow_succ', ← Nat.div_div_eq_div_mul, List.getD_cons_succ, ← ih others]
      congr 2
      omega

/-- The code of value `i` in the key bytes, 0 in an unused field (30_encoding.md R108). -/
theorem svbKeys_code {codes : List Nat} (small : ∀ c ∈ codes, c < 4) {i : Nat} (hi : i < 4 * ceilDiv codes.length 4) :
    ((svbKeys codes).getD (i / 4) 0).toNat / 4 ^ (i % 4) % 4 = codes.getD i 0 := by
  have field : i % 4 < 4 := Nat.mod_lt i (by decide)
  have key : (svbKeys codes).getD (i / 4) 0 = BitVec.ofNat 8 (svbKey ((codes.drop (4 * (i / 4))).take 4)) := by
    simp [svbKeys, chunk_eq_map_range, List.getD_eq_getElem?_getD, show i / 4 < ceilDiv codes.length 4 by omega]
  have group : ∀ c ∈ (codes.drop (4 * (i / 4))).take 4, c < 4 :=
    fun c hc => small c (List.mem_of_mem_drop (List.mem_of_mem_take hc))
  have byte : svbKey ((codes.drop (4 * (i / 4))).take 4) < 2 ^ 8 :=
    calc svbKey ((codes.drop (4 * (i / 4))).take 4)
      _ < 4 ^ ((codes.drop (4 * (i / 4))).take 4).length := svbKey_lt group
      _ ≤ 4 ^ 4 := Nat.pow_le_pow_right (by decide) (List.length_take_le 4 _)
  rw [key, BitVec.toNat_ofNat, Nat.mod_eq_of_lt byte, svbKey_digit group, take_drop_getD _ _ field, Nat.div_add_mod]

/-! ### Records -/

@[simp] theorem svbRecord_length (delta : Word) : (svbRecord delta).length = svbCode delta + 1 := by
  have := svbCode_lt delta
  rw [svbRecord, leN, List.length_take, le32_length]
  omega

theorem svbRecord_getD {delta : Word} {k : Nat} (hk : k ≤ svbCode delta) :
    (svbRecord delta).getD k 0 = (le32 delta).getD k 0 := by
  simp [svbRecord, leN, List.getD_eq_getElem?_getD, Nat.lt_succ_of_le hk]

theorem svbRecords_length (ds : List Word) :
    (ds.flatMap svbRecord).length = (ds.map fun d => svbCode d + 1).sum := by
  simp [List.length_flatMap]

theorem liesAt_flatMap {α β : Type} (f : α → List β) {xs : List α} {i : Nat} (hi : i < xs.length) (default : α) :
    LiesAt (f (xs.getD i default)) (xs.flatMap f) ((xs.take i).flatMap f).length := by
  have split : xs.flatMap f = (xs.take i).flatMap f ++ (f xs[i] ++ (xs.drop (i + 1)).flatMap f) := by
    conv_lhs => rw [← List.take_append_drop i xs, List.drop_eq_getElem_cons hi, List.flatMap_append, List.flatMap_cons]
  rw [split, List.getD_eq_getElem _ _ hi]
  exact (liesAt_append_right _ _).left

/-! ### The whole stream -/

theorem svbStream_keys_length (x : List Word) :
    (svbKeys ((delta1 x).map svbCode)).length = (x.length + 3) / 4 := by
  simp [ceilDiv]

theorem svbEncode_length (x : List Word) :
    (svbEncode x).length = 4 + (x.length + 3) / 4 + ((delta1 x).map fun d => svbCode d + 1).sum := by
  rw [svbEncode, List.length_append, List.length_append, le32_length, svbStream_keys_length, svbRecords_length]

theorem svbEncode_keys_lieAt (x : List Word) : LiesAt (svbKeys ((delta1 x).map svbCode)) (svbEncode x) 4 := by
  have lies := liesAt_append_right (le32 (BitVec.ofNat 32 x.length))
    (svbKeys ((delta1 x).map svbCode) ++ (delta1 x).flatMap svbRecord)
  rw [← List.append_assoc, le32_length] at lies
  exact lies.left

theorem svbEncode_code {x : List Word} {i : Nat} (hi : i < 4 * ((x.length + 3) / 4)) :
    ((svbEncode x).getD (4 + i / 4) 0).toNat / 4 ^ (i % 4) % 4 =
      if i < x.length then svbCode ((delta1 x).getD i 0) else 0 := by
  have small : ∀ c ∈ (delta1 x).map svbCode, c < 4 := List.forall_mem_map.mpr fun d _ => svbCode_lt d
  have inKeys : i / 4 < (svbKeys ((delta1 x).map svbCode)).length := by
    rw [svbStream_keys_length]
    omega
  rw [(svbEncode_keys_lieAt x).getD_eq inKeys, svbKeys_code small (by simpa [ceilDiv] using hi)]
  by_cases used : i < x.length <;> simp [List.getD_eq_getElem?_getD, used]

/-- Record `i` lies behind the keys and the records before it (30_encoding.md R107, R109). -/
theorem svbEncode_record_liesAt {x : List Word} {i : Nat} (hi : i < x.length) :
    LiesAt (svbRecord ((delta1 x).getD i 0)) (svbEncode x)
      (4 + (x.length + 3) / 4 + (((delta1 x).take i).map fun d => svbCode d + 1).sum) := by
  have inRecords := liesAt_flatMap svbRecord (show i < (delta1 x).length by rwa [delta1_length]) 0
  have lies := inRecords.trans
    (liesAt_append_right (le32 (BitVec.ofNat 32 x.length) ++ svbKeys ((delta1 x).map svbCode)) _)
  rwa [List.length_append, le32_length, svbStream_keys_length, svbRecords_length] at lies

end Sys2Proof.Machine

namespace Sys2Proof.Proofs

open Sys2Proof.Machine

/-- Settles O44: each region lies behind the lengths of those before it. -/
theorem svbStreamFormat : Obligations.SvbStreamFormat := by
  unfold Obligations.SvbStreamFormat
  refine fun x => ⟨?_, svbEncode_length x, fun i hi => svbEncode_code hi, fun i hi k hk => ?_⟩
  · rw [svbEncode, List.append_assoc]
    exact List.take_left' (le32_length _)
  · rw [(svbEncode_record_liesAt hi).getD_eq (by rw [svbRecord_length]; omega), svbRecord_getD hk]

end Sys2Proof.Proofs
end

section
/-!
PROOFS. A word cut into parts of one width. The lanes and the bytes of a vector are such parts (00_scope.md R17), and a lane shift
moves whole parts (40_lane_primitives.md R131, R132).
-/

namespace Sys2Proof.Machine

/-- Part `j` of the word `x` cut into parts of `w` bits, the least significant first. -/
def part (w : Nat) {n : Nat} (x : BitVec n) (j : Nat) : BitVec w := x.extractLsb' (w * j) w

theorem part_getLsbD {w n p : Nat} (x : BitVec n) (j : Nat) (hp : p < w) :
    (part w x j).getLsbD p = x.getLsbD (w * j + p) := by
  rw [part, BitVec.getLsbD_extractLsb', decide_eq_true hp, Bool.true_and]

theorem part_append_four {w : Nat} (a b c d : BitVec w) {j : Nat} (hj : j < 4) :
    part w (d ++ c ++ b ++ a) j = [a, b, c, d].getD j 0 := by
  apply BitVec.eq_of_getLsbD_eq
  intro p hp
  rw [part_getLsbD _ _ hp]
  match j, hj with
  | 0, _ => simp [BitVec.getLsbD_append, hp]
  | 1, _ => simp [BitVec.getLsbD_append, hp]
  | 2, _ =>
    simp [BitVec.getLsbD_append, show ¬w * 2 + p < w by omega, show ¬w * 2 + p - w < w by omega,
      show w * 2 + p - w - w = p by omega, hp]
  | 3, _ =>
    simp [BitVec.getLsbD_append, show ¬w * 3 + p < w by omega, show ¬w * 3 + p - w < w by omega,
      show ¬w * 3 + p - w - w < w by omega, show w * 3 + p - w - w - w = p by omega]

/-- A part of a part, where the larger parts hold `m` of the smaller ones. -/
theorem part_part {w m n : Nat} (x : BitVec n) (i : Nat) {j : Nat} (hj : j < m) :
    part w (part (w * m) x i) j = part w x (m * i + j) := by
  apply BitVec.eq_of_getLsbD_eq
  intro p hp
  have inside : w * j + p < w * m :=
    calc w * j + p
      _ < w * (j + 1) := by rw [Nat.mul_succ]; omega
      _ ≤ w * m := Nat.mul_le_mul_left w hj
  rw [part_getLsbD _ _ hp, part_getLsbD _ _ inside, part_getLsbD _ _ hp, Nat.mul_add, Nat.mul_assoc, Nat.add_assoc]

/-- There is nothing above the top of a word. -/
theorem part_of_le {w n j : Nat} {x : BitVec n} (h : n ≤ w * j) : part w x j = 0 := by
  apply BitVec.eq_of_getLsbD_eq
  intro p hp
  rw [part_getLsbD _ _ hp, BitVec.getLsbD_of_ge _ _ (by omega)]
  simp

theorem part_shiftLeft {w n : Nat} (x : BitVec n) (m : Nat) {j : Nat} (hj : w * (j + 1) ≤ n) :
    part w (x <<< (w * m)) j = if m ≤ j then part w x (j - m) else 0 := by
  apply BitVec.eq_of_getLsbD_eq
  intro p hp
  have inside : w * j + p < n := by
    rw [Nat.mul_succ] at hj
    omega
  rw [part_getLsbD _ _ hp, BitVec.getLsbD_shiftLeft, decide_eq_true inside, Bool.true_and]
  split
  next moved =>
    have source : w * j = w * (j - m) + w * m := by rw [← Nat.mul_add, Nat.sub_add_cancel moved]
    rw [part_getLsbD _ _ hp, decide_eq_false (by omega), show w * j + p - w * m = w * (j - m) + p by omega]
    rfl
  next filled =>
    have below : w * (j + 1) ≤ w * m := Nat.mul_le_mul_left w (by omega)
    rw [Nat.mul_succ] at below
    rw [decide_eq_true (by omega)]
    simp

theorem part_ushiftRight {w n : Nat} (x : BitVec n) (m j : Nat) : part w (x >>> (w * m)) j = part w x (j + m) := by
  apply BitVec.eq_of_getLsbD_eq
  intro p hp
  rw [part_getLsbD _ _ hp, part_getLsbD _ _ hp, BitVec.getLsbD_ushiftRight, Nat.mul_add, ← Nat.add_assoc,
    Nat.add_comm (w * m)]

end Sys2Proof.Machine
end

section
/-!
PROOFS. The lanes and bytes of a vector, and what the pure functions on vectors make of them (00_scope.md R17, 40_lane_primitives.md
R131 to R138).
-/

namespace Sys2Proof.Machine

open Sys2Proof.Claims

/-! ### Lanes -/

theorem part_toU128 (v : Vec) {j : Nat} (hj : j < 4) : part 32 (Vec.toU128 v) j = (Vec.lanes v).getD j 0 :=
  part_append_four v.l0 v.l1 v.l2 v.l3 hj

/-- A vector of a `u128` has its four 32-bit parts as lanes (00_scope.md R17). -/
theorem ofU128_eq (x : BitVec 128) : Vec.ofU128 x = ⟨part 32 x 0, part 32 x 1, part 32 x 2, part 32 x 3⟩ := rfl

@[simp] theorem ofU128_toU128 (v : Vec) : Vec.ofU128 (Vec.toU128 v) = v := by
  rw [ofU128_eq, part_toU128 v (by decide), part_toU128 v (by decide), part_toU128 v (by decide), part_toU128 v (by decide)]
  rfl

@[simp] theorem toU128_ofU128 (x : BitVec 128) : Vec.toU128 (Vec.ofU128 x) = x := by
  have high : x.extractLsb' 96 32 ++ x.extractLsb' 64 32 = x.extractLsb' 64 64 :=
    BitVec.extractLsb'_append_extractLsb'_eq_extractLsb' rfl
  have upper : x.extractLsb' 64 64 ++ x.extractLsb' 32 32 = x.extractLsb' 32 96 :=
    BitVec.extractLsb'_append_extractLsb'_eq_extractLsb' rfl
  have whole : x.extractLsb' 32 96 ++ x.extractLsb' 0 32 = x.extractLsb' 0 128 :=
    BitVec.extractLsb'_append_extractLsb'_eq_extractLsb' rfl
  calc Vec.toU128 (Vec.ofU128 x)
    _ = x.extractLsb' 96 32 ++ x.extractLsb' 64 32 ++ x.extractLsb' 32 32 ++ x.extractLsb' 0 32 := rfl
    _ = x := by rw [high, upper, whole, BitVec.extractLsb'_eq_self]

/-! ### Bytes -/

theorem byte_eq_part (v : Vec) (i : Nat) : Vec.byte v i = part 8 (Vec.toU128 v) i := rfl

/-- A byte of a vector lies in its lane, least significant first (10_state.md R30). -/
theorem byteOf_eq_byte (v : Vec) {i : Nat} (hi : i < 16) : byteOf v i = Vec.byte v i := by
  have inLane : part 8 (part (8 * 4) (Vec.toU128 v) (i / 4)) (i % 4) = part 8 (Vec.toU128 v) i := by
    rw [part_part _ _ (Nat.mod_lt i (by decide)), Nat.div_add_mod]
  calc byteOf v i
    _ = part 8 ((Vec.lanes v).getD (i / 4) 0) (i % 4) := rfl
    _ = part 8 (part 32 (Vec.toU128 v) (i / 4)) (i % 4) := by rw [part_toU128 v (by omega)]
    _ = Vec.byte v i := inLane

theorem byte_of_le (v : Vec) {i : Nat} (hi : 16 ≤ i) : Vec.byte v i = 0 := part_of_le (by omega)

theorem byte_shlBytes (v : Vec) (k : Nat) {i : Nat} (hi : i < 16) :
    Vec.byte (shlBytes v k) i = if k ≤ i then Vec.byte v (i - k) else 0 := by
  rw [byte_eq_part, shlBytes, toU128_ofU128, part_shiftLeft _ _ (by omega)]
  rfl

theorem byte_shrBytes (v : Vec) (k i : Nat) : Vec.byte (shrBytes v k) i = Vec.byte v (i + k) := by
  rw [byte_eq_part, shrBytes, toU128_ofU128, part_ushiftRight]
  rfl

theorem byte_ofBytes (f : Nat → Byte) {i : Nat} (hi : i < 16) : Vec.byte (Vec.ofBytes f) i = f i := by
  have lane : ∀ j < 4, (Vec.lanes (Vec.ofBytes f)).getD j 0 =
      f (4 * j + 3) ++ f (4 * j + 2) ++ f (4 * j + 1) ++ f (4 * j + 0)
    | 0, _ | 1, _ | 2, _ | 3, _ => rfl
  have inLane : ∀ j < 4, [f (4 * (i / 4) + 0), f (4 * (i / 4) + 1), f (4 * (i / 4) + 2), f (4 * (i / 4) + 3)].getD j 0 =
      f (4 * (i / 4) + j)
    | 0, _ | 1, _ | 2, _ | 3, _ => rfl
  have slot : i % 4 < 4 := Nat.mod_lt i (by decide)
  calc Vec.byte (Vec.ofBytes f) i
    _ = part 8 ((Vec.lanes (Vec.ofBytes f)).getD (i / 4) 0) (i % 4) := (byteOf_eq_byte _ hi).symm
    _ = f (4 * (i / 4) + i % 4) := by rw [lane _ (by omega), part_append_four _ _ _ _ slot, inLane _ slot]
    _ = f i := by rw [Nat.div_add_mod]

/-- Two vectors with the same bytes are equal. -/
theorem vec_eq_of_byte_eq {v u : Vec} (h : ∀ i < 16, Vec.byte v i = Vec.byte u i) : v = u := by
  have bits : Vec.toU128 v = Vec.toU128 u := BitVec.eq_of_getLsbD_eq fun p hp => by
    have sameByte : part 8 (Vec.toU128 v) (p / 8) = part 8 (Vec.toU128 u) (p / 8) := h (p / 8) (by omega)
    have slot : p % 8 < 8 := Nat.mod_lt p (by decide)
    rw [← Nat.div_add_mod p 8, ← part_getLsbD _ _ slot, sameByte, part_getLsbD _ _ slot]
  rw [← ofU128_toU128 v, bits, ofU128_toU128]

/-! ### Shifts -/

theorem shlBytes_zero (v : Vec) : shlBytes v 0 = v := by simp [shlBytes]

theorem shrBytes_zero (v : Vec) : shrBytes v 0 = v := by simp [shrBytes]

theorem shlBytes_shlBytes (v : Vec) (k1 k2 : Nat) : shlBytes (shlBytes v k1) k2 = shlBytes v (k1 + k2) := by
  simp only [shlBytes, toU128_ofU128, Nat.mul_add, BitVec.shiftLeft_add]

theorem shrBytes_shrBytes (v : Vec) (k1 k2 : Nat) : shrBytes (shrBytes v k1) k2 = shrBytes v (k1 + k2) := by
  simp only [shrBytes, toU128_ofU128, Nat.mul_add, BitVec.shiftRight_add]

theorem shlBytes_of_le (v : Vec) {k : Nat} (hk : 16 ≤ k) : shlBytes v k = Vec.zero := by
  rw [shlBytes, BitVec.shiftLeft_eq_zero (by omega)]
  rfl

theorem shrBytes_of_le (v : Vec) {k : Nat} (hk : 16 ≤ k) : shrBytes v k = Vec.zero := by
  rw [shrBytes, BitVec.ushiftRight_eq_zero (by omega)]
  rfl

/-- Up and down again loses the `8k` highest bits (40_lane_primitives.md R139). -/
theorem shrBytes_shlBytes_toNat (v : Vec) {k : Nat} (hk : k ≤ 16) :
    (Vec.toU128 (shrBytes (shlBytes v k) k)).toNat = (Vec.toU128 v).toNat % 2 ^ (128 - 8 * k) := by
  have top : 2 ^ 128 = 2 ^ (128 - 8 * k) * 2 ^ (8 * k) := by rw [← Nat.pow_add, Nat.sub_add_cancel (by omega)]
  rw [shrBytes, shlBytes, toU128_ofU128, toU128_ofU128, BitVec.toNat_ushiftRight, BitVec.toNat_shiftLeft,
    Nat.shiftLeft_eq, Nat.shiftRight_eq_div_pow, top, Nat.mul_mod_mul_right, Nat.mul_div_cancel _ (Nat.two_pow_pos _)]

theorem gather_idxLeft (v : Vec) (k : Nat) : gather v (idxLeft k) = shlBytes v k := by
  refine vec_eq_of_byte_eq fun i hi => ?_
  rw [gather, byte_ofBytes _ hi, byte_shlBytes v k hi, idxLeft]
  by_cases moved : k ≤ i <;> simp [moved]

theorem gather_idxRight (v : Vec) (k : Nat) : gather v (idxRight k) = shrBytes v k := by
  refine vec_eq_of_byte_eq fun i hi => ?_
  rw [gather, byte_ofBytes _ hi, byte_shrBytes, idxRight]
  by_cases inside : i + k ≤ 15
  · simp [inside]
  · simp [inside, byte_of_le v (show 16 ≤ i + k by omega)]

/-- A shift by whole lanes moves them (40_lane_primitives.md R135). -/
theorem shlBytes_lanes (v : Vec) (m : Nat) {j : Nat} (hj : j < 4) :
    part 32 (Vec.toU128 (shlBytes v (4 * m))) j = if m ≤ j then (Vec.lanes v).getD (j - m) 0 else 0 := by
  rw [shlBytes, toU128_ofU128, ← Nat.mul_assoc, part_shiftLeft _ _ (by omega), part_toU128 v (by omega)]

theorem shlBytes_four (v : Vec) : shlBytes v 4 = ⟨0, v.l0, v.l1, v.l2⟩ := by
  rw [← ofU128_toU128 (shlBytes v 4), ofU128_eq]
  congr 1 <;> exact shlBytes_lanes v 1 (by decide)

theorem shlBytes_eight (v : Vec) : shlBytes v 8 = ⟨0, 0, v.l0, v.l1⟩ := by
  rw [← ofU128_toU128 (shlBytes v 8), ofU128_eq]
  congr 1 <;> exact shlBytes_lanes v 2 (by decide)

/-! ### Differences and sums -/

theorem psum1V_delta1V (c p : Vec) : psum1V (delta1V c p) p = c := by
  simp only [psum1V, delta1V, add_sub_cancel]

theorem delta1V_psum1V (d p : Vec) : delta1V (psum1V d p) p = d := by
  simp only [psum1V, delta1V, add_sub_cancel_left]

theorem undelta4V_delta4V (c p : Vec) : undelta4V (delta4V c p) p = c := by
  simp only [undelta4V, delta4V, Vec.map2, sub_add_cancel]

theorem delta4V_undelta4V (d p : Vec) : delta4V (undelta4V d p) p = d := by
  simp only [undelta4V, delta4V, Vec.map2, add_sub_cancel_right]

/-- The two shifted additions leave in each lane the sum of the lanes up to it (40_lane_primitives.md R135). -/
theorem psum1VShiftAdd_eq (d p : Vec) : psum1VShiftAdd d p = psum1V d p := by
  simp only [psum1VShiftAdd, psum1V, shlBytes_four, shlBytes_eight, Vec.map2, Vec.splat, Vec.mk.injEq, add_zero]
  refine ⟨?_, ?_, ?_, ?_⟩ <;> ac_rfl

/-! ### The width of a vector -/

theorem or_toNat_lt_two_pow_iff {x y : Word} {b : Nat} :
    (x ||| y).toNat < 2 ^ b ↔ x.toNat < 2 ^ b ∧ y.toNat < 2 ^ b := by
  rw [BitVec.toNat_or]
  exact ⟨fun h => ⟨Nat.left_le_or.trans_lt h, Nat.right_le_or.trans_lt h⟩, fun ⟨hx, hy⟩ => Nat.or_lt_two_pow hx hy⟩

/-- A width covers every lane exactly when `MaxBits` is at most that width (40_lane_primitives.md R138). -/
theorem maxBits_le_iff {v : Vec} {b : Nat} : maxBits v ≤ b ↔ ∀ x ∈ Vec.lanes v, x.toNat < 2 ^ b := by
  rw [maxBits, bits32_le_iff, hOr, or_toNat_lt_two_pow_iff, or_toNat_lt_two_pow_iff, or_toNat_lt_two_pow_iff]
  simp [Vec.lanes, and_assoc]

end Sys2Proof.Machine
end

section
/-!
PROOFS. The vector formulations of the transforms (41_transforms.md R151 to R155): a group of four elements by one vector operation is
four steps of the scalar recursion.
-/

namespace Sys2Proof.Machine

/-- A form on groups of four that takes each group as the scalar function does agrees with it on all the full groups and the tail. -/
theorem vectors_eq_scalar {form : Nat → Vec → List Word → List Word} (scalar : Vec → List Word → List Word)
    (tail : ∀ prev xs, form 0 prev xs = scalar prev xs)
    (group : ∀ count prev a b c d rest, (∀ next, form count next rest = scalar next rest) →
      form (count + 1) prev (a :: b :: c :: d :: rest) = scalar prev (a :: b :: c :: d :: rest))
    {count : Nat} {xs : List Word} (full : 4 * count ≤ xs.length) (prev : Vec) : form count prev xs = scalar prev xs := by
  induction count generalizing xs prev with
  | zero => exact tail prev xs
  | succ count ih =>
    match xs, full with
    | a :: b :: c :: d :: rest, full =>
      have others : 4 * count ≤ rest.length := by
        simp only [List.length_cons] at full
        omega
      exact group count prev a b c d rest fun next => ih others next

theorem delta1Vectors_eq {count : Nat} {xs : List Word} (full : 4 * count ≤ xs.length) (prev : Vec) :
    delta1Vectors count prev xs = delta1From prev.l3 xs := by
  refine vectors_eq_scalar (fun p => delta1From p.l3) (fun _ _ => rfl) (fun count prev a b c d rest ih => ?_) full prev
  calc delta1Vectors (count + 1) prev (a :: b :: c :: d :: rest)
    _ = [a - prev.l3, b - a, c - b, d - c] ++ delta1Vectors count ⟨a, b, c, d⟩ rest := rfl
    _ = [a - prev.l3, b - a, c - b, d - c] ++ delta1From d rest := by rw [ih]

theorem prefixSumVectors_eq {count : Nat} {xs : List Word} (full : 4 * count ≤ xs.length) (carry : Vec) :
    prefixSumVectors count carry xs = undelta1From carry.l3 xs := by
  refine vectors_eq_scalar (fun p => undelta1From p.l3) (fun _ _ => rfl)
    (fun count carry a b c d rest ih => ?_) full carry
  calc prefixSumVectors (count + 1) carry (a :: b :: c :: d :: rest)
    _ = Vec.lanes (psum1V ⟨a, b, c, d⟩ carry) ++ prefixSumVectors count (psum1V ⟨a, b, c, d⟩ carry) rest := rfl
    _ = Vec.lanes (psum1V ⟨a, b, c, d⟩ carry) ++ undelta1From (carry.l3 + a + b + c + d) rest := by rw [ih]; rfl

theorem delta4Vectors_eq {count : Nat} {xs : List Word} (full : 4 * count ≤ xs.length) (prev : Vec) :
    delta4Vectors count prev xs = delta4From prev.l0 prev.l1 prev.l2 prev.l3 xs := by
  refine vectors_eq_scalar (fun p => delta4From p.l0 p.l1 p.l2 p.l3) (fun _ _ => rfl)
    (fun count prev a b c d rest ih => ?_) full prev
  calc delta4Vectors (count + 1) prev (a :: b :: c :: d :: rest)
    _ = [a - prev.l0, b - prev.l1, c - prev.l2, d - prev.l3] ++ delta4Vectors count ⟨a, b, c, d⟩ rest := rfl
    _ = [a - prev.l0, b - prev.l1, c - prev.l2, d - prev.l3] ++ delta4From a b c d rest := by rw [ih]

/-- `Undelta4V` adds the earlier results on the right where R154 has them on the left. -/
theorem undelta4V_comm (d prev : Vec) : undelta4V d prev = undelta4V prev d := by
  simp only [undelta4V, Vec.map2, add_comm]

theorem undelta4Vectors_eq {count : Nat} {xs : List Word} (full : 4 * count ≤ xs.length) (prev : Vec) :
    undelta4Vectors count prev xs = undelta4From prev.l0 prev.l1 prev.l2 prev.l3 xs := by
  refine vectors_eq_scalar (fun p => undelta4From p.l0 p.l1 p.l2 p.l3) (fun _ _ => rfl)
    (fun count prev a b c d rest ih => ?_) full prev
  calc undelta4Vectors (count + 1) prev (a :: b :: c :: d :: rest)
    _ = Vec.lanes (undelta4V ⟨a, b, c, d⟩ prev) ++ undelta4Vectors count (undelta4V ⟨a, b, c, d⟩ prev) rest := rfl
    _ = Vec.lanes (undelta4V prev ⟨a, b, c, d⟩) ++
        undelta4From (prev.l0 + a) (prev.l1 + b) (prev.l2 + c) (prev.l3 + d) rest := by rw [undelta4V_comm, ih]; rfl

end Sys2Proof.Machine
end

section
/-!
PROOFS. The statements about the lane primitives (40_lane_primitives.md R130 to R139) and the vector formulations of the transforms
(41_transforms.md R151 to R155).
-/

namespace Sys2Proof.Proofs

open Sys2Proof.Machine

/-- Settles O19: a shift to the left by whole bytes moves them up, and the command ends with that vector in `VR`. -/
theorem lshlShiftsBytesUp : Obligations.LshlShiftsBytesUp := by
  unfold Obligations.LshlShiftsBytesUp
  refine fun k s _ => ⟨shlBytes s.va k, rfl, fun i hi => ?_⟩
  rw [byteOf_eq_byte _ hi, byte_shlBytes _ _ hi, byteOf_eq_byte s.va (show i - k < 16 by omega)]

/-- Settles O20: a shift to the right by whole bytes moves them down, and above byte 15 there is nothing. -/
theorem lshrShiftsBytesDown : Obligations.LshrShiftsBytesDown := by
  unfold Obligations.LshrShiftsBytesDown
  refine fun k s _ => ⟨shrBytes s.va k, rfl, fun i hi => ?_⟩
  rw [byteOf_eq_byte _ hi, byte_shrBytes]
  split
  next inside => rw [byteOf_eq_byte _ (by omega)]
  next above => exact byte_of_le _ (by omega)

/-- Settles O21: the closed forms are the definitions of R134 to R137, lane by lane. -/
theorem vectorDifferencesAndSums : Obligations.VectorDifferencesAndSums := by
  unfold Obligations.VectorDifferencesAndSums
  exact fun s => ⟨rfl, rfl, rfl, rfl⟩

/-- Settles O22, through the characterisation of `MaxBits` as the least width that covers every lane. -/
theorem vmaxbitsIsLeastCoveringWidth : Obligations.VmaxbitsIsLeastCoveringWidth := by
  unfold Obligations.VmaxbitsIsLeastCoveringWidth
  exact fun s => ⟨maxBits s.va, maxBits_le_iff.mpr fun x _ => x.isLt, rfl, maxBits_le_iff.mp le_rfl,
    fun _ covers => maxBits_le_iff.mpr covers⟩

/-- Settles O23: shifts compose by adding their counts, the gathers agree with them byte by byte, sums and differences cancel. -/
theorem laneLaws : Obligations.LaneLaws := by
  unfold Obligations.LaneLaws
  intro v c p k k1 k2 hk _ _
  refine ⟨shlBytes_zero v, shrBytes_zero v, fun _ => ⟨shlBytes_shlBytes v k1 k2, shrBytes_shrBytes v k1 k2⟩, fun past => ?_,
    shrBytes_shlBytes_toNat v (by omega), gather_idxLeft v k, gather_idxRight v k, psum1V_delta1V c p, delta1V_psum1V c p,
    undelta4V_delta4V c p, delta4V_undelta4V c p⟩
  rw [shlBytes_shlBytes, shrBytes_shrBytes]
  exact ⟨shlBytes_of_le v past, shrBytes_of_le v past⟩

/-- Settles O31: the groups of a transform start after the zero vector, and all of them are full. -/
theorem transformVectorFormsAgree : Obligations.TransformVectorFormsAgree := by
  unfold Obligations.TransformVectorFormsAgree
  refine ⟨psum1VShiftAdd_eq, fun x => ?_⟩
  have full : 4 * (x.length / 4) ≤ x.length := Nat.mul_div_le x.length 4
  exact ⟨delta1Vectors_eq full Vec.zero, prefixSumVectors_eq full Vec.zero, delta4Vectors_eq full Vec.zero,
    undelta4Vectors_eq full Vec.zero⟩

end Sys2Proof.Proofs
end

section
/-!
PROOFS. The transforms as pure functions (41_transforms.md R151 to R155): element by element a difference or a sum with the element some
places earlier, and each inverse undoes its difference.
-/

namespace Sys2Proof.Machine

/-! ### The recursions, element by element -/

theorem delta1From_getD (prev : Word) {xs : List Word} {j : Nat} (hj : j < xs.length) :
    (delta1From prev xs).getD j 0 = xs.getD j 0 - (prev :: xs).getD j 0 := by
  induction xs generalizing prev j with
  | nil => cases hj
  | cons x xs ih =>
    cases j with
    | zero => rfl
    | succ j => exact ih x (Nat.lt_of_succ_lt_succ hj)

theorem undelta1From_getD (prev : Word) {ds : List Word} {j : Nat} (hj : j < ds.length) :
    (undelta1From prev ds).getD j 0 = (prev :: undelta1From prev ds).getD j 0 + ds.getD j 0 := by
  induction ds generalizing prev j with
  | nil => cases hj
  | cons d ds ih =>
    cases j with
    | zero => rfl
    | succ j => exact ih (prev + d) (Nat.lt_of_succ_lt_succ hj)

theorem delta4From_getD (p0 p1 p2 p3 : Word) {xs : List Word} {j : Nat} (hj : j < xs.length) :
    (delta4From p0 p1 p2 p3 xs).getD j 0 = xs.getD j 0 - (p0 :: p1 :: p2 :: p3 :: xs).getD j 0 := by
  induction xs generalizing p0 p1 p2 p3 j with
  | nil => cases hj
  | cons x xs ih =>
    cases j with
    | zero => rfl
    | succ j => exact ih p1 p2 p3 x (Nat.lt_of_succ_lt_succ hj)

theorem undelta4From_getD (p0 p1 p2 p3 : Word) {ds : List Word} {j : Nat} (hj : j < ds.length) :
    (undelta4From p0 p1 p2 p3 ds).getD j 0 =
      (p0 :: p1 :: p2 :: p3 :: undelta4From p0 p1 p2 p3 ds).getD j 0 + ds.getD j 0 := by
  induction ds generalizing p0 p1 p2 p3 j with
  | nil => cases hj
  | cons d ds ih =>
    cases j with
    | zero => rfl
    | succ j => exact ih p1 p2 p3 (p0 + d) (Nat.lt_of_succ_lt_succ hj)

/-! ### Differences and sums over a lag -/

/-- `y[j] = x[j] - x[j - lag]`, where the `lag` elements before the first are 0. -/
def DifferencesAt (lag : Nat) (f : List Word → List Word) : Prop :=
  ∀ xs j, j < xs.length → (f xs).getD j 0 = xs.getD j 0 - (List.replicate lag 0 ++ xs).getD j 0

/-- `y[j] = y[j - lag] + x[j]`, where the `lag` results before the first are 0. -/
def SumsAt (lag : Nat) (f : List Word → List Word) : Prop :=
  ∀ ds j, j < ds.length → (f ds).getD j 0 = (List.replicate lag 0 ++ f ds).getD j 0 + ds.getD j 0

theorem delta1_differencesAt : DifferencesAt 1 delta1 := fun _ _ hj => delta1From_getD 0 hj

theorem delta4_differencesAt : DifferencesAt 4 delta4 := fun _ _ hj => delta4From_getD 0 0 0 0 hj

theorem undelta1_sumsAt : SumsAt 1 undelta1 := fun _ _ hj => undelta1From_getD 0 hj

theorem undelta4_sumsAt : SumsAt 4 undelta4 := fun _ _ hj => undelta4From_getD 0 0 0 0 hj

theorem prefixSum_sumsAt : SumsAt 1 prefixSum := undelta1_sumsAt

theorem getD_replicate_append (lag : Nat) (xs : List Word) (j : Nat) :
    (List.replicate lag 0 ++ xs).getD j 0 = if j < lag then 0 else xs.getD (j - lag) 0 := by
  split
  next early => rw [List.getD_append _ _ _ _ (by simpa using early), List.getD_replicate _ early]
  next late => rw [List.getD_append_right _ _ _ _ (by simpa using late), List.length_replicate]

theorem DifferencesAt.getD {lag : Nat} {f : List Word → List Word} (h : DifferencesAt lag f) {xs : List Word} {j : Nat}
    (hj : j < xs.length) :
    (f xs).getD j 0 = if j < lag then xs.getD j 0 else xs.getD j 0 - xs.getD (j - lag) 0 := by
  rw [h xs j hj, getD_replicate_append]
  split
  next => exact sub_zero _
  next => rfl

theorem SumsAt.getD {lag : Nat} {f : List Word → List Word} (h : SumsAt lag f) {ds : List Word} {j : Nat}
    (hj : j < ds.length) :
    (f ds).getD j 0 = if j < lag then ds.getD j 0 else (f ds).getD (j - lag) 0 + ds.getD j 0 := by
  rw [h ds j hj, getD_replicate_append]
  split
  next => exact zero_add _
  next => rfl

/-! ### The inverses -/

theorem undelta1From_delta1From (prev : Word) (xs : List Word) : undelta1From prev (delta1From prev xs) = xs := by
  induction xs generalizing prev with
  | nil => rfl
  | cons x xs ih => rw [delta1From, undelta1From, add_sub_cancel, ih]

theorem delta1From_undelta1From (prev : Word) (ds : List Word) : delta1From prev (undelta1From prev ds) = ds := by
  induction ds generalizing prev with
  | nil => rfl
  | cons d ds ih => rw [undelta1From, delta1From, add_sub_cancel_left, ih]

theorem undelta4From_delta4From (p0 p1 p2 p3 : Word) (xs : List Word) :
    undelta4From p0 p1 p2 p3 (delta4From p0 p1 p2 p3 xs) = xs := by
  induction xs generalizing p0 p1 p2 p3 with
  | nil => rfl
  | cons x xs ih => rw [delta4From, undelta4From, add_sub_cancel, ih]

theorem delta4From_undelta4From (p0 p1 p2 p3 : Word) (ds : List Word) :
    delta4From p0 p1 p2 p3 (undelta4From p0 p1 p2 p3 ds) = ds := by
  induction ds generalizing p0 p1 p2 p3 with
  | nil => rfl
  | cons d ds ih => rw [undelta4From, delta4From, add_sub_cancel_left, ih]

end Sys2Proof.Machine
end

section
/-!
PROOFS. The commands of the transforms (41_transforms.md R150): an integer buffer reads as what was stored in it (20_memory.md R62), the
checks in their order, and a transform on a buffer that passes them.
-/

namespace Sys2Proof.Machine

open Sys2Proof.Claims

/-! ### Integer buffers in memory -/

theorem leNat_le32 (v : Word) : leNat (le32 v) = v.toNat := by
  have bound := v.isLt
  simp only [le32, leNat, BitVec.extractLsb'_toNat, Nat.shiftRight_eq_div_pow]
  omega

theorem Memory.readBytes_eq {m : Memory} {a : Nat} {bs : List Byte}
    (h : ∀ i < bs.length, m.read (a + i) = bs.getD i 0) : m.readBytes a bs.length = bs := by
  refine List.ext_getElem (Memory.readBytes_length m a bs.length) fun i hi hi' => ?_
  rw [← List.getD_eq_getElem _ 0 hi, ← List.getD_eq_getElem _ 0 hi', Memory.readBytes_getD m a _ i hi', h i hi']

/-- Four bytes that are those of a word read as that word (20_memory.md R64). -/
theorem Memory.readU32_eq {m : Memory} {a : Nat} {v : Word} (h : ∀ i < 4, m.read (a + i) = (le32 v).getD i 0) :
    m.readU32 a = v := by
  have bytes : m.readBytes a 4 = le32 v := Memory.readBytes_eq (bs := le32 v) h
  calc m.readU32 a
    _ = BitVec.ofNat 32 (leNat (le32 v)) := by rw [Memory.readU32, bytes]; rfl
    _ = v := by rw [leNat_le32, BitVec.ofNat_toNat, BitVec.setWidth_eq]

theorem Memory.readU32_writeWords (m : Memory) (a : Nat) {xs : List Word} {j : Nat} (hj : j < xs.length) :
    (m.writeWords a xs).readU32 (a + 4 * j) = xs.getD j 0 := by
  refine Memory.readU32_eq fun i hi => ?_
  have inside : 4 * j + i < (bytesOf xs).length := by
    rw [bytesOf_length]
    omega
  rw [Memory.writeWords, Nat.add_assoc, Memory.read_writeBytes_inside _ _ _ _ inside, bytesOf_getD xs hj hi]

theorem elements_length (s : State) : (elements s).length = s.srcLen.toNat := by simp

theorem elements_getD (s : State) {j : Nat} (hj : j < s.srcLen.toNat) : (elements s).getD j 0 = element s j := by
  simp [List.getD_eq_getElem?_getD, hj]

theorem readWords_eq_elements (s : State) : s.mem.readWords s.src.toNat s.srcLen.toNat = elements s := by
  refine List.ext_getElem (by simp) fun j hj hj' => ?_
  have inside : j < s.srcLen.toNat := by rwa [elements_length] at hj'
  rw [← List.getD_eq_getElem _ 0 hj, ← List.getD_eq_getElem _ 0 hj', Memory.readWords_getD _ _ _ _ inside,
    elements_getD s inside]

/-! ### The checks -/

theorem transformFault_of_not_fits {s : State} (h : ¬Fits s.srcElements) : transformFault s = some .operandRange :=
  if_pos ((Window.pastTop_iff _).mpr (Nat.lt_of_not_le h))

theorem transformFault_of_fits {s : State} (h : Fits s.srcElements) :
    transformFault s = if s.srcElements.blocked s.holes then some .accessFault else none :=
  if_neg fun top => Nat.not_lt_of_le h ((Window.pastTop_iff _).mp top)

theorem transformFault_of_inaccessible {s : State} (fits : Fits s.srcElements) (h : SomeInaccessible s s.srcElements) :
    transformFault s = some .accessFault :=
  (transformFault_of_fits fits).trans (if_pos ((Window.blocked_iff _ _).mpr h))

theorem transformFault_of_ready {s : State} (ready : TransformReady s) : transformFault s = none := by
  obtain ⟨fits, access⟩ := ready
  refine (transformFault_of_fits fits).trans (if_neg fun blocked => ?_)
  obtain ⟨a, inside, closed⟩ := (Window.blocked_iff _ _).mp blocked
  exact Bool.false_ne_true (closed.symm.trans (access a inside))

theorem raise_eq_faulted (c : Cause) (s : State) : s.raise c = faulted c.number s := rfl

theorem runTransform_of_fault {s : State} {c : Cause} (f : List Word → List Word) (h : transformFault s = some c) :
    runTransform f s = faulted c.number s := by
  rw [runTransform, h, ← raise_eq_faulted]

theorem runTransform_of_ready {s : State} (f : List Word → List Word) (ready : TransformReady s) :
    runTransform f s = (s.storeWords s.src.toNat (f (elements s))).succeed s.srcLen.toNat s.srcLen.toNat := by
  rw [runTransform, transformFault_of_ready ready, readWords_eq_elements]

/-- The commands of `UNIT` 1 differ in their pure function alone. -/
theorem exec_transform {i : Instr} (h : i ∈ [Instr.delta1, .undelta1, .delta4, .undelta4, .prefixsum]) :
    ∃ f, ∀ s, exec i s = .next (runTransform f s) := by
  simp only [List.mem_cons, List.not_mem_nil, or_false] at h
  obtain rfl | rfl | rfl | rfl | rfl := h
  · exact ⟨delta1, fun _ => rfl⟩
  · exact ⟨undelta1, fun _ => rfl⟩
  · exact ⟨delta4, fun _ => rfl⟩
  · exact ⟨undelta4, fun _ => rfl⟩
  · exact ⟨prefixSum, fun _ => rfl⟩

/-! ### A transform that completes -/

section

variable {i : Instr} {f : List Word → List Word} {s : State} (runs : ∀ s, exec i s = .next (runTransform f s))
  (hf : ∀ xs, (f xs).length = xs.length) (ready : TransformReady s)

include runs hf ready

/-- What a transform leaves in memory is its pure function of the buffer; `value` need only agree with that on the elements left there. -/
theorem transformWrites_of_ready {value : State → Nat → Word}
    (agrees : ∀ t, (∀ j < s.srcLen.toNat, element t j = (f (elements s)).getD j 0) →
      ∀ j < s.srcLen.toNat, (f (elements s)).getD j 0 = value t j) :
    TransformWrites i value s := by
  have length : (f (elements s)).length = s.srcLen.toNat := by rw [hf, elements_length]
  have written : ∀ j < s.srcLen.toNat,
      element ((s.storeWords s.src.toNat (f (elements s))).succeed s.srcLen.toNat s.srcLen.toNat) j =
        (f (elements s)).getD j 0 :=
    fun j hj => Memory.readU32_writeWords s.mem s.src.toNat (by rwa [length])
  refine ⟨_, (runs s).trans (congrArg _ (runTransform_of_ready f ready)), ?_,
    fun j hj => (written j hj).trans (agrees _ written j hj), fun a outside => ?_⟩
  · simp [State.succeed, State.storeWords, statusSuccess]
  · exact Memory.read_writeBytes_outside s.mem _ _ a (by rwa [bytesOf_length, length])

theorem transformWrites_differences {lag : Nat} (law : DifferencesAt lag f) :
    TransformWrites i (fun _ j => if j < lag then element s j else element s j - element s (j - lag)) s := by
  refine transformWrites_of_ready runs hf ready fun t _ j hj => ?_
  rw [law.getD (by rwa [elements_length]), elements_getD s hj, elements_getD s (Nat.sub_lt_of_lt hj)]

theorem transformWrites_sums {lag : Nat} (law : SumsAt lag f) :
    TransformWrites i (fun t j => if j < lag then element s j else element t (j - lag) + element s j) s := by
  refine transformWrites_of_ready runs hf ready fun t written j hj => ?_
  rw [law.getD (by rwa [elements_length]), elements_getD s hj, written _ (Nat.sub_lt_of_lt hj)]

end

/-- With a lag of one the element that stays is the first. -/
theorem ite_lt_one {α : Type} (x : Nat → α) (y : α) (j : Nat) :
    (if j < 1 then x j else y) = if j = 0 then x 0 else y := by
  cases j <;> simp

end Sys2Proof.Machine
end

section
/-!
PROOFS. The statements about the transforms (41_transforms.md R150 to R155).
-/

namespace Sys2Proof.Proofs

open Sys2Proof.Machine Sys2Proof.Claims

/-- Settles O25: `Delta1` takes differences at lag 1. -/
theorem delta1Differences : Obligations.Delta1Differences := by
  unfold Obligations.Delta1Differences
  intro s ready
  simpa only [ite_lt_one (element s)] using
    transformWrites_differences (i := .delta1) (fun _ => rfl) delta1_length ready delta1_differencesAt

/-- Settles O26: `Undelta1`, and `PrefixSum` with it, adds at lag 1 to the element it has just written. -/
theorem undelta1AndPrefixsumSum : Obligations.Undelta1AndPrefixsumSum := by
  unfold Obligations.Undelta1AndPrefixsumSum
  intro s ready
  constructor
  · simpa only [ite_lt_one (element s)] using
      transformWrites_sums (i := .undelta1) (fun _ => rfl) undelta1_length ready undelta1_sumsAt
  · simpa only [ite_lt_one (element s)] using
      transformWrites_sums (i := .prefixsum) (fun _ => rfl) prefixSum_length ready prefixSum_sumsAt

/-- Settles O27: `Delta4` takes differences at lag 4. -/
theorem delta4Differences : Obligations.Delta4Differences := by
  unfold Obligations.Delta4Differences
  exact fun s ready => transformWrites_differences (fun _ => rfl) delta4_length ready delta4_differencesAt

/-- Settles O28: `Undelta4` adds at lag 4 to the elements it has written. -/
theorem undelta4Sums : Obligations.Undelta4Sums := by
  unfold Obligations.Undelta4Sums
  exact fun s ready => transformWrites_sums (fun _ => rfl) undelta4_length ready undelta4_sumsAt

/-- Settles O29: all five run the same checks before their pure function. -/
theorem transformChecksInOrder : Obligations.TransformChecksInOrder := by
  unfold Obligations.TransformChecksInOrder
  intro s i transform
  obtain ⟨f, runs⟩ := exec_transform transform
  rw [runs s]
  exact ⟨fun range => congrArg _ (runTransform_of_fault f (transformFault_of_not_fits range)),
    fun fits access => congrArg _ (runTransform_of_fault f (transformFault_of_inaccessible fits access))⟩

/-- Settles O30, from the recursions with any elements before the first. -/
theorem transformsAreInverse : Obligations.TransformsAreInverse := by
  unfold Obligations.TransformsAreInverse
  exact fun x => ⟨undelta1From_delta1From 0 x, delta1From_undelta1From 0 x, undelta4From_delta4From 0 0 0 0 x,
    delta4From_undelta4From 0 0 0 0 x⟩

end Sys2Proof.Proofs
end

section
/-!
PROOFS. The checks of the commands of the codec contract in their order (42_codec_contract.md R180 to R182, 60_exceptions.md R276): each
one's cause where it fails and those before it hold, and no cause where all hold.
-/

namespace Sys2Proof.Machine

open Sys2Proof.Claims

/-! ### The checks on windows -/

theorem Window.pastTop_of_not_fits {w : Window} (h : ¬Fits w) : w.pastTop = true :=
  w.pastTop_iff.mpr (Nat.lt_of_not_le h)

theorem Window.not_pastTop_of_fits {w : Window} (h : Fits w) : ¬w.pastTop = true :=
  fun top => Nat.not_lt_of_le h (w.pastTop_iff.mp top)

theorem Window.not_overlaps_of_apart {v w : Window} (h : Apart v w) : ¬v.overlaps w = true := fun overlap => by
  obtain ⟨a, inV, inW⟩ := (v.overlaps_iff w).mp overlap
  exact Bool.false_ne_true ((h a inV).symm.trans inW)

theorem Window.not_blocked_of_accessible {s : State} {w : Window} (h : AllAccessible s w) : ¬w.blocked s.holes = true :=
  fun blocked => by
    obtain ⟨a, inside, closed⟩ := (w.blocked_iff s.holes).mp blocked
    exact Bool.false_ne_true (closed.symm.trans (h a inside))

theorem blocked_or_of_inaccessible {s : State} {v w : Window} (h : SomeInaccessible s v ∨ SomeInaccessible s w) :
    (v.blocked s.holes || w.blocked s.holes) = true :=
  Bool.or_eq_true_iff.mpr (h.imp (v.blocked_iff s.holes).mpr (w.blocked_iff s.holes).mpr)

theorem not_blocked_or_of_accessible {s : State} {v w : Window} (hv : AllAccessible s v) (hw : AllAccessible s w) :
    ¬(v.blocked s.holes || w.blocked s.holes) = true := fun blocked =>
  (Bool.or_eq_true_iff.mp blocked).elim (Window.not_blocked_of_accessible hv) (Window.not_blocked_of_accessible hw)

theorem not_pastTop_or_of_fits {v w : Window} (hv : Fits v) (hw : Fits w) : ¬(v.pastTop || w.pastTop) = true := fun top =>
  (Bool.or_eq_true_iff.mp top).elim (Window.not_pastTop_of_fits hv) (Window.not_pastTop_of_fits hw)

section

variable {s : State}

/-! ### The checks of a `DECLEN` -/

theorem declenFault_of_not_fits (h : ¬Fits s.srcBytes) : declenFault s = some .operandRange :=
  if_pos (Window.pastTop_of_not_fits h)

theorem declenFault_of_fits (fits : Fits s.srcBytes) :
    declenFault s = if s.srcBytes.blocked s.holes then some .accessFault else none :=
  if_neg (Window.not_pastTop_of_fits fits)

theorem declenFault_of_inaccessible (fits : Fits s.srcBytes) (h : SomeInaccessible s s.srcBytes) :
    declenFault s = some .accessFault :=
  (declenFault_of_fits fits).trans (if_pos ((Window.blocked_iff _ _).mpr h))

theorem declenFault_of_accessible (fits : Fits s.srcBytes) (access : AllAccessible s s.srcBytes) : declenFault s = none :=
  (declenFault_of_fits fits).trans (if_neg (Window.not_blocked_of_accessible access))

/-! ### The checks of a `DEC` -/

theorem decFault_of_not_fits (h : ¬Fits s.srcBytes ∨ ¬Fits s.dstElements) : decFault s = some .operandRange :=
  if_pos (Bool.or_eq_true_iff.mpr (h.imp Window.pastTop_of_not_fits Window.pastTop_of_not_fits))

theorem decFault_of_fits (src : Fits s.srcBytes) (dst : Fits s.dstElements) :
    decFault s =
      if s.srcBytes.overlaps s.dstElements then some .aliasing
      else if s.srcBytes.blocked s.holes || s.dstElements.blocked s.holes then some .accessFault
      else none :=
  if_neg (not_pastTop_or_of_fits src dst)

theorem decFault_of_share (src : Fits s.srcBytes) (dst : Fits s.dstElements) (h : Share s.srcBytes s.dstElements) :
    decFault s = some .aliasing := by
  rw [decFault_of_fits src dst, if_pos ((Window.overlaps_iff _ _).mpr h)]

theorem decFault_of_inaccessible (src : Fits s.srcBytes) (dst : Fits s.dstElements) (apart : Apart s.srcBytes s.dstElements)
    (h : SomeInaccessible s s.srcBytes ∨ SomeInaccessible s s.dstElements) : decFault s = some .accessFault := by
  rw [decFault_of_fits src dst, if_neg (Window.not_overlaps_of_apart apart), if_pos (blocked_or_of_inaccessible h)]

theorem decFault_of_ready (ready : DecReady s) : decFault s = none := by
  obtain ⟨src, dst, apart, srcAccess, dstAccess⟩ := ready
  rw [decFault_of_fits src dst, if_neg (Window.not_overlaps_of_apart apart),
    if_neg (not_blocked_or_of_accessible srcAccess dstAccess)]

/-! ### The checks of an `ENC` -/

variable {x : Codec}

/-- The checks of an `ENC` whose cause is `OperandRangeError` hold (42_codec_contract.md R181, 45_composite.md R255). -/
structure EncInRange (x : Codec) (s : State) : Prop where
  small : s.srcLen.toNat < 2 ^ 32
  range : x.encRange s.srcLen.toNat = true
  src : Fits s.srcElements
  dst : Fits s.dstBytes

theorem encLength_check_iff (x : Codec) (n : Nat) :
    (decide (2 ^ 32 ≤ n) || !x.encRange n) = true ↔ 2 ^ 32 ≤ n ∨ ¬x.encRange n = true := by
  rw [Bool.or_eq_true_iff, decide_eq_true_iff, Bool.not_eq_true', Bool.not_eq_true]

theorem encFault_of_outOfRange (h : 2 ^ 32 ≤ s.srcLen.toNat ∨ ¬x.encRange s.srcLen.toNat = true ∨ ¬Fits s.srcElements ∨
    ¬Fits s.dstBytes) : encFault x s = some .operandRange := by
  rw [← or_assoc, ← encLength_check_iff] at h
  unfold encFault
  obtain length | windows := h
  · rw [if_pos length]
  · rw [if_pos (Bool.or_eq_true_iff.mpr (windows.imp Window.pastTop_of_not_fits Window.pastTop_of_not_fits)), ite_self]

theorem encFault_of_inRange (h : EncInRange x s) :
    encFault x s =
      if s.srcLen.toNat % x.blockSize ≠ 0 then some .inputLength
      else if s.dstCap.toNat < x.maxLen s.srcLen.toNat then some .outputCapacity
      else if s.srcElements.overlaps s.dstBytes then some .aliasing
      else if s.srcElements.blocked s.holes || s.dstBytes.blocked s.holes then some .accessFault
      else none := by
  have length : ¬(decide (2 ^ 32 ≤ s.srcLen.toNat) || !x.encRange s.srcLen.toNat) = true := fun check =>
    ((encLength_check_iff x _).mp check).elim (Nat.not_le_of_lt h.small) (not_not_intro h.range)
  rw [encFault, if_neg length, if_neg (not_pastTop_or_of_fits h.src h.dst)]

section

variable (inRange : EncInRange x s)

include inRange

theorem encFault_of_partial_block (h : s.srcLen.toNat % x.blockSize ≠ 0) : encFault x s = some .inputLength := by
  rw [encFault_of_inRange inRange, if_pos h]

variable (whole : s.srcLen.toNat % x.blockSize = 0)

include whole

theorem encFault_of_small_capacity (h : s.dstCap.toNat < x.maxLen s.srcLen.toNat) : encFault x s = some .outputCapacity := by
  rw [encFault_of_inRange inRange, if_neg (not_not_intro whole), if_pos h]

variable (room : x.maxLen s.srcLen.toNat ≤ s.dstCap.toNat)

include room

theorem encFault_of_room :
    encFault x s =
      if s.srcElements.overlaps s.dstBytes then some .aliasing
      else if s.srcElements.blocked s.holes || s.dstBytes.blocked s.holes then some .accessFault
      else none := by
  rw [encFault_of_inRange inRange, if_neg (not_not_intro whole), if_neg (Nat.not_lt_of_le room)]

theorem encFault_of_share (h : Share s.srcElements s.dstBytes) : encFault x s = some .aliasing := by
  rw [encFault_of_room inRange whole room, if_pos ((Window.overlaps_iff _ _).mpr h)]

variable (apart : Apart s.srcElements s.dstBytes)

include apart

theorem encFault_of_inaccessible (h : SomeInaccessible s s.srcElements ∨ SomeInaccessible s s.dstBytes) :
    encFault x s = some .accessFault := by
  rw [encFault_of_room inRange whole room, if_neg (Window.not_overlaps_of_apart apart),
    if_pos (blocked_or_of_inaccessible h)]

theorem encFault_of_accessible (src : AllAccessible s s.srcElements) (dst : AllAccessible s s.dstBytes) :
    encFault x s = none := by
  rw [encFault_of_room inRange whole room, if_neg (Window.not_overlaps_of_apart apart),
    if_neg (not_blocked_or_of_accessible src dst)]

end

/-! ### A check that fails ends the command -/

theorem runDeclen_of_fault {c : Cause} (x : Codec) (h : declenFault s = some c) : runDeclen x s = faulted c.number s := by
  rw [runDeclen, h, ← raise_eq_faulted]

theorem runEnc_of_fault {c : Cause} (h : encFault x s = some c) : runEnc x s = faulted c.number s := by
  rw [runEnc, h, ← raise_eq_faulted]

theorem runDec_of_fault {c : Cause} (x : Codec) (h : decFault s = some c) : runDec x s = faulted c.number s := by
  rw [runDec, h, ← raise_eq_faulted]

end

end Sys2Proof.Machine
end

section
/-!
PROOFS. The parameters of the three codecs are those of the closed forms (43_block_codec.md R190, R191, 44_streamvbyte.md R220, R221,
45_composite.md R249 to R255), and what the composite's query, encoder and decoder make of their two parts.
-/

namespace Sys2Proof.Machine

open Sys2Proof.Claims

/-! ### Parameters -/

theorem bp_maxLen : bp.maxLen = bpBound := funext fun n => by
  simp [bp, bpMaxLen, ceilDiv]

theorem svb_maxLen : svb.maxLen = svbBound := funext fun n => by
  simp [svb, svbMaxLen, ceilDiv]

theorem headLength_bp (n : Nat) : headLength bp n = 128 * (n / 128) := Nat.mul_comm _ _

theorem comp_maxLen : comp.maxLen = compBound := funext fun n => by
  have tail : n - headLength bp n = n % 128 := by
    rw [headLength_bp]
    omega
  calc comp.maxLen n
    _ = 4 + bp.maxLen (headLength bp n) + svb.maxLen (n - headLength bp n) := rfl
    _ = compBound n := by rw [tail, headLength_bp, bp_maxLen, svb_maxLen]

theorem comp_encRange (n : Nat) : comp.encRange n = true ↔ bpBound (128 * (n / 128)) < 2 ^ 32 := by
  rw [← headLength_bp, ← bp_maxLen]
  exact decide_eq_true_iff

/-! ### The count of a stream -/

theorem u32at_take {s : List Byte} {p n : Nat} (h : p + 4 ≤ n) : u32at (s.take n) p = u32at s p := by
  rw [u32at, uat, List.drop_take, List.take_take, Nat.min_eq_left (by omega)]
  rfl

theorem u32at_drop (s : List Byte) (n p : Nat) : u32at (s.drop n) p = u32at s (n + p) := by
  rw [u32at, uat, List.drop_drop]
  rfl

theorem u32at_le32_append (v : Word) (s : List Byte) : u32at (le32 v ++ s) 0 = v := by
  rw [u32at, uat, List.drop_zero, List.take_left' (le32_length v), leNat_le32, BitVec.ofNat_toNat, BitVec.setWidth_eq]

theorem countHeader_of_short {s : List Byte} (h : s.length < 4) : countHeader s = none := if_pos h

theorem countHeader_of_long {s : List Byte} (h : 4 ≤ s.length) : countHeader s = some ((u32at s 0).toNat, 4) :=
  if_neg (Nat.not_lt_of_le h)

theorem countHeader_le32_append {n : Nat} (h : n < 2 ^ 32) (s : List Byte) :
    countHeader (le32 (BitVec.ofNat 32 n) ++ s) = some (n, 4) := by
  rw [countHeader_of_long (by simp), u32at_le32_append, BitVec.toNat_ofNat, Nat.mod_eq_of_lt h]

/-! ### The two parts of a composite stream -/

/-- A stream shorter than its length field is also shorter than the field and the bulk slice together. -/
theorem compositeSlices_eq (s : List Byte) :
    compositeSlices s =
      if 4 + (u32at s 0).toNat ≤ s.length then
        some ((s.drop 4).take (u32at s 0).toNat, s.drop (4 + (u32at s 0).toNat))
      else none := by
  unfold compositeSlices
  by_cases inside : 4 + (u32at s 0).toNat ≤ s.length
  · rw [if_neg (by omega), if_neg (by omega), if_pos inside]
  · rw [if_neg inside, if_pos (Nat.lt_of_not_le inside), ite_self]

theorem compositeSlices_eq_some_iff {s bulk rest : List Byte} :
    compositeSlices s = some (bulk, rest) ↔
      4 + (u32at s 0).toNat ≤ s.length ∧
        bulk = (s.drop 4).take (u32at s 0).toNat ∧ rest = s.drop (4 + (u32at s 0).toNat) := by
  simp [compositeSlices_eq, eq_comm]

theorem length_bulk {s : List Byte} {bl : Nat} (h : 4 + bl ≤ s.length) : ((s.drop 4).take bl).length = bl := by
  rw [List.length_take, List.length_drop]
  omega

theorem compositeDecode_eq_some_iff {a z : Codec} {s : List Byte} {cap : Nat} {ys : List Word} {used : Nat} :
    compositeDecode a z s cap = some (ys, used) ↔
      ∃ bulk rest ya yz cz, compositeSlices s = some (bulk, rest) ∧ a.decode bulk cap = some (ya, bulk.length) ∧
        z.decode rest (cap - ya.length) = some (yz, cz) ∧ ys = ya ++ yz ∧ used = 4 + bulk.length + cz := by
  unfold compositeDecode
  constructor
  · intro h
    split at h
    · cases h
    next bulk rest slices =>
    split at h
    · cases h
    next ya ca decodesBulk =>
    split_ifs at h with whole
    split at h
    · cases h
    next yz cz decodesRest =>
    cases h
    exact ⟨bulk, rest, ya, yz, cz, slices, not_not.mp whole ▸ decodesBulk, decodesRest, rfl, rfl⟩
  · rintro ⟨bulk, rest, ya, yz, cz, slices, decodesBulk, decodesRest, rfl, rfl⟩
    simp [slices, decodesBulk, decodesRest]

theorem countHeader_bulk {s : List Byte} {bl : Nat} (long : 4 ≤ bl) (inside : 4 + bl ≤ s.length) :
    countHeader ((s.drop 4).take bl) = some ((u32at s 4).toNat, 4) := by
  rw [countHeader_of_long (by rwa [length_bulk inside]), u32at_take (by omega), u32at_drop]

theorem countHeader_rest {s : List Byte} {p : Nat} (inside : p + 4 ≤ s.length) :
    countHeader (s.drop p) = some ((u32at s p).toNat, 4) := by
  rw [countHeader_of_long (by rw [List.length_drop]; omega), u32at_drop, Nat.add_zero]

/-- `COMP_DecLen` is defined exactly where both slices hold a count (45_composite.md R252, R253). -/
theorem comp_decLen_eq {s : List Byte} {bl : Nat} (hbl : bl = (u32at s 0).toNat) :
    comp.decLen s =
      if 4 ≤ bl ∧ 4 + bl + 4 ≤ s.length then some ((u32at s 4).toNat + (u32at s (4 + bl)).toNat, 12) else none := by
  change compositeDecLen bp svb s = _
  rw [compositeDecLen, compositeSlices_eq, ← hbl]
  by_cases inside : 4 + bl ≤ s.length
  · rw [if_pos inside]
    by_cases bulk : 4 ≤ bl
    · by_cases rest : 4 + bl + 4 ≤ s.length
      · simp [bp, bpDecLen, svb, svbDecLen, countHeader_bulk bulk inside, countHeader_rest rest, bulk, rest]
      · have noCount : countHeader (s.drop (4 + bl)) = none := countHeader_of_short (by rw [List.length_drop]; omega)
        simp [bp, bpDecLen, svb, svbDecLen, countHeader_bulk bulk inside, noCount, rest]
    · have noCount : countHeader ((s.drop 4).take bl) = none :=
        countHeader_of_short (by rw [length_bulk inside]; omega)
      simp [bp, bpDecLen, noCount, bulk]
  · rw [if_neg inside, if_neg (by omega)]

/-- `COMP_Encode` on its head and tail (45_composite.md R249, R254). -/
theorem comp_encode_eq (x : List Word) :
    comp.encode x =
      le32 (BitVec.ofNat 32 (bpEncode (x.take (128 * (x.length / 128)))).length) ++
        bpEncode (x.take (128 * (x.length / 128))) ++ svbEncode (x.drop (128 * (x.length / 128))) := by
  rw [← headLength_bp]
  rfl

/-- `COMP_Decode` as the rules say it (45_composite.md R252, R256). -/
theorem comp_decode_eq_some_iff {s : List Byte} {cap : Nat} {ys : List Word} {used : Nat} :
    comp.decode s cap = some (ys, used) ↔ CompDecodes s cap ys used := by
  refine Iff.trans (compositeDecode_eq_some_iff (a := bp) (z := svb)) ?_
  simp only [compositeSlices_eq_some_iff]
  constructor
  · rintro ⟨bulk, rest, ya, yz, cz, ⟨inside, rfl, rfl⟩, decodesBulk, decodesRest, values, used⟩
    rw [length_bulk inside] at decodesBulk used
    exact ⟨_, ya, yz, cz, by omega, rfl, inside, decodesBulk, decodesRest, values, used⟩
  · rintro ⟨bl, ya, yz, cz, _, rfl, inside, decodesBulk, decodesRest, values, used⟩
    refine ⟨_, _, ya, yz, cz, ⟨inside, rfl, rfl⟩, ?_, decodesRest, values, ?_⟩
    · rwa [length_bulk inside]
    · rwa [length_bulk inside]

end Sys2Proof.Machine
end

section
/-!
PROOFS. The queries of the codec contract (42_codec_contract.md R178 to R180): the stream in memory, and the commands on it.
-/

namespace Sys2Proof.Machine

open Sys2Proof.Claims

/-! ### The stream in memory -/

theorem stream_length (s : State) : (stream s).length = s.srcLen.toNat := by simp

theorem readBytes_eq_stream (s : State) : s.mem.readBytes s.src.toNat s.srcLen.toNat = stream s := by
  have length := stream_length s
  have bytes := Memory.readBytes_eq (m := s.mem) (a := s.src.toNat) (bs := stream s) fun i hi => by
    rw [length] at hi
    simp [List.getD_eq_getElem?_getD, hi]
  rwa [length] at bytes

theorem u32at_stream {s : State} {p : Nat} (h : p + 4 ≤ s.srcLen.toNat) :
    u32at (stream s) p = s.mem.readU32 (s.src.toNat + p) := by
  have bytes : ((stream s).drop p).take 4 = s.mem.readBytes (s.src.toNat + p) 4 := by
    rw [take_drop_map_range, Nat.min_eq_left (by omega)]
    rfl
  rw [u32at, uat, bytes]
  rfl

/-! ### The commands -/

theorem runMaxLen_of_lt {x : Codec} {s : State} (h : x.maxLen s.srcLen.toNat < 2 ^ 64) :
    runMaxLen x s = s.succeed (x.maxLen s.srcLen.toNat) 0 :=
  if_neg (Nat.not_le_of_lt h)

theorem runMaxLen_of_le {x : Codec} {s : State} (h : 2 ^ 64 ≤ x.maxLen s.srcLen.toNat) : runMaxLen x s = faulted 5 s :=
  if_pos h

theorem exec_maxLen {p : Instr × Nat} {n : Nat}
    (h : p ∈ [(Instr.bpMaxlen, bpBound n), (Instr.svbMaxlen, svbBound n), (Instr.compMaxlen, compBound n)]) :
    ∃ x : Codec, (∀ s, exec p.1 s = .next (runMaxLen x s)) ∧ x.maxLen n = p.2 := by
  simp only [List.mem_cons, List.not_mem_nil, or_false] at h
  obtain rfl | rfl | rfl := h
  · exact ⟨bp, fun _ => rfl, congrFun bp_maxLen n⟩
  · exact ⟨svb, fun _ => rfl, congrFun svb_maxLen n⟩
  · exact ⟨comp, fun _ => rfl, congrFun comp_maxLen n⟩

section

variable {x : Codec} {s : State} (fits : Fits s.srcBytes) (access : AllAccessible s s.srcBytes)

include fits access

theorem runDeclen_of_none (h : x.decLen (stream s) = none) : runDeclen x s = faulted 3 s := by
  rw [runDeclen, declenFault_of_accessible fits access, readBytes_eq_stream, h]
  rfl

theorem runDeclen_of_some {count header : Nat} (h : x.decLen (stream s) = some (count, header)) :
    runDeclen x s = s.succeed count header := by
  rw [runDeclen, declenFault_of_accessible fits access, readBytes_eq_stream, h]

end

theorem exec_declen {i : Instr} (h : i ∈ [Instr.bpDeclen, .svbDeclen]) :
    ∃ x : Codec, (∀ s, exec i s = .next (runDeclen x s)) ∧ x.decLen = countHeader := by
  simp only [List.mem_cons, List.not_mem_nil, or_false] at h
  obtain rfl | rfl := h
  · exact ⟨bp, fun _ => rfl, rfl⟩
  · exact ⟨svb, fun _ => rfl, rfl⟩

end Sys2Proof.Machine

namespace Sys2Proof.Proofs

open Sys2Proof.Machine Sys2Proof.Claims

/-- Settles O32: the words are those of the map's rows, and the commands look at nothing. -/
theorem blockSizes : Obligations.BlockSizes := by
  unfold Obligations.BlockSizes
  exact fun s => ⟨decodeOfEncode .bpBlocksize rfl, decodeOfEncode .svbBlocksize rfl, decodeOfEncode .compBlocksize rfl,
    rfl, rfl, rfl⟩

/-- Settles O33: the closed forms are the codecs' bounds, and the command compares with 2^64. -/
theorem maxLengths : Obligations.MaxLengths := by
  unfold Obligations.MaxLengths
  intro s p hp
  obtain ⟨x, runs, bound⟩ := exec_maxLen hp
  rw [runs, ← bound]
  exact ⟨fun fits => congrArg _ (runMaxLen_of_lt fits), fun large => congrArg _ (runMaxLen_of_le large)⟩

/-- Settles O34: both queries are the 4-byte count of the stream. -/
theorem declenReadsTheCount : Obligations.DeclenReadsTheCount := by
  unfold Obligations.DeclenReadsTheCount
  intro s i hi
  obtain ⟨x, runs, query⟩ := exec_declen hi
  rw [runs]
  refine ⟨fun range => congrArg _ (runDeclen_of_fault x (declenFault_of_not_fits range)),
    fun fits closed => congrArg _ (runDeclen_of_fault x (declenFault_of_inaccessible fits closed)),
    fun fits access => ⟨fun short => congrArg _ ?_, fun long => congrArg _ ?_⟩⟩
  · refine runDeclen_of_none fits access ?_
    rw [query, countHeader_of_short (by rwa [stream_length])]
  · have count : x.decLen (stream s) = some ((s.mem.readU32 s.src.toNat).toNat, 4) := by
      rw [query, countHeader_of_long (by rwa [stream_length]), u32at_stream (by omega), Nat.add_zero]
    rw [runDeclen_of_some fits access count, State.succeed, BitVec.ofNat_toNat]
    rfl

/-- Settles O35: the query is the sum of the counts of the two slices, each where the length field puts it. -/
theorem compDeclenAddsTheCounts : Obligations.CompDeclenAddsTheCounts := by
  unfold Obligations.CompDeclenAddsTheCounts
  intro s
  have runs : exec .compDeclen s = .next (runDeclen comp s) := rfl
  rw [runs]
  refine ⟨fun range => congrArg _ (runDeclen_of_fault comp (declenFault_of_not_fits range)),
    fun fits closed => congrArg _ (runDeclen_of_fault comp (declenFault_of_inaccessible fits closed)),
    fun fits access => ⟨fun short => congrArg _ ?_, fun long bl hbl => ?_⟩⟩
  · refine runDeclen_of_none fits access ?_
    rw [comp_decLen_eq rfl, if_neg (by rw [stream_length]; omega)]
  · have field : bl = (u32at (stream s) 0).toNat := by rw [u32at_stream (by omega), hbl, Nat.add_zero]
    have query := comp_decLen_eq field
    rw [stream_length] at query
    refine ⟨fun outside => congrArg _ ?_, fun bulk rest => congrArg _ ?_⟩
    · exact runDeclen_of_none fits access (query.trans (if_neg (by omega)))
    · have counts := query.trans (if_pos ⟨bulk, rest⟩)
      rw [u32at_stream (by omega), u32at_stream rest] at counts
      rw [runDeclen_of_some fits access counts, State.succeed, BitVec.ofNat_add, BitVec.ofNat_toNat, BitVec.ofNat_toNat]
      rfl

end Sys2Proof.Proofs
end

section
/-!
PROOFS. The encoders and decoders of the codec contract as commands (42_codec_contract.md R181, R182): each codec's `ENC` and `DEC`
differ in the codec alone.
-/

namespace Sys2Proof.Machine

open Sys2Proof.Claims

section

variable {i : Instr} {x : Codec} {s : State}

/-! ### An `ENC` -/

section

variable (runs : ∀ s, exec i s = .next (runEnc x s))

include runs

/-- Every `ENC` makes the checks of its own codec's parameters. -/
theorem encChecks_of_codec {range : Nat → Prop} (hr : ∀ n, x.encRange n = true ↔ range n) :
    EncChecks i x.blockSize x.maxLen range s := by
  have raises {c : Cause} (h : encFault x s = some c) : exec i s = .next (faulted c.number s) :=
    (runs s).trans (congrArg _ (runEnc_of_fault h))
  refine ⟨fun outOfRange => ?_, fun small inRange src dst => ?_⟩
  · rw [← hr] at outOfRange
    exact raises (encFault_of_outOfRange outOfRange)
  · have checked : EncInRange x s := ⟨small, (hr _).mpr inRange, src, dst⟩
    exact ⟨fun partialBlock => raises (encFault_of_partial_block checked partialBlock),
      fun whole => ⟨fun capacity => raises (encFault_of_small_capacity checked whole capacity),
        fun room => ⟨fun share => raises (encFault_of_share checked whole room share),
          fun apart closed => raises (encFault_of_inaccessible checked whole room apart closed)⟩⟩⟩

theorem encWrites_of_ready (bounded : x.Bounded) (ready : EncReady s) (range : x.encRange s.srcLen.toNat = true)
    (whole : s.srcLen.toNat % x.blockSize = 0) (room : x.maxLen s.srcLen.toNat ≤ s.dstCap.toNat) :
    EncWrites i (x.encode (elements s)) s := by
  obtain ⟨small, src, dst, apart, srcAccess, dstAccess⟩ := ready
  have passes := encFault_of_accessible ⟨small, range, src, dst⟩ whole room apart srcAccess dstAccess
  have fits : (x.encode (elements s)).length ≤ s.dstCap.toNat := by
    have bound := bounded.1 (elements s)
    rw [elements_length] at bound
    exact bound.trans room
  have completes : runEnc x s =
      (s.storeBytes s.dst.toNat (x.encode (elements s))).succeed (x.encode (elements s)).length s.srcLen.toNat := by
    rw [runEnc, passes, encOutput, readWords_eq_elements]
  refine ⟨_, (runs s).trans (congrArg _ completes), ?_, fits, fun j hj => ?_, fun a outside => ?_⟩
  · simp [State.succeed, State.storeBytes, statusSuccess]
  · exact Memory.read_writeBytes_inside s.mem _ _ j hj
  · exact Memory.read_writeBytes_outside s.mem _ _ a outside

end

/-! ### A `DEC` -/

theorem exec_dec (h : i ∈ [Instr.bpDec, .svbDec, .compDec]) : ∃ x, ∀ s, exec i s = .next (runDec x s) := by
  simp only [List.mem_cons, List.not_mem_nil, or_false] at h
  obtain rfl | rfl | rfl := h
  · exact ⟨bp, fun _ => rfl⟩
  · exact ⟨svb, fun _ => rfl⟩
  · exact ⟨comp, fun _ => rfl⟩

theorem decOutput_eq (x : Codec) (s : State) : decOutput x s = x.decode (stream s) s.dstCap.toNat := by
  rw [decOutput, readBytes_eq_stream]

section

variable (runs : ∀ s, exec i s = .next (runDec x s)) (ready : DecReady s)

include runs ready

theorem decWrites_of_decodes (bounded : x.Bounded) {ys : List Word} {used : Nat}
    (decodes : x.decode (stream s) s.dstCap.toNat = some (ys, used)) : DecWrites i ys used s := by
  have completes : runDec x s = (s.storeWords s.dst.toNat ys).succeed ys.length used := by
    rw [runDec, decFault_of_ready ready, decOutput_eq, decodes]
  refine ⟨_, (runs s).trans (congrArg _ completes), rfl, bounded.2 _ _ _ _ decodes, fun j hj => ?_, fun a outside => ?_⟩
  · exact Memory.readU32_writeWords s.mem _ hj
  · exact Memory.read_writeBytes_outside s.mem _ _ a (by rwa [bytesOf_length])

theorem decTruncated_of_none (corrupt : x.decode (stream s) s.dstCap.toNat = none) : DecTruncated i s := by
  have raises : runDec x s = (s.scribble s.dstElements).raise .truncated := by
    rw [runDec, decFault_of_ready ready, decOutput_eq, corrupt]
  refine ⟨_, (runs s).trans (congrArg _ raises), rfl, fun j hj => ?_, fun a outside => ?_⟩
  · rw [← freeBytes_getD s.draws (4 * s.dstCap.toNat) j hj]
    exact Memory.read_writeBytes_inside s.mem _ _ j (by rwa [freeBytes_length])
  · exact Memory.read_writeBytes_outside s.mem _ _ a (by rwa [freeBytes_length])

end

end

end Sys2Proof.Machine

namespace Sys2Proof.Proofs

open Sys2Proof.Machine Sys2Proof.Claims

/-- Settles O36: `BP` has no range condition of its own. -/
theorem bpEncWritesTheStream : Obligations.BpEncWritesTheStream := by
  unfold Obligations.BpEncWritesTheStream
  intro s ready whole room
  rw [← bp_maxLen] at room
  exact encWrites_of_ready (x := bp) (fun _ => rfl) bp_bounded ready rfl whole room

/-- Settles O37: with a block size of 1 every length is whole. -/
theorem svbEncWritesTheStream : Obligations.SvbEncWritesTheStream := by
  unfold Obligations.SvbEncWritesTheStream
  intro s ready room
  rw [← svb_maxLen] at room
  exact encWrites_of_ready (x := svb) (fun _ => rfl) svb_bounded ready rfl (Nat.mod_one _) room

/-- Settles O38: the composite encoder cuts the buffer behind its last whole block. -/
theorem compEncWritesTheStream : Obligations.CompEncWritesTheStream := by
  unfold Obligations.CompEncWritesTheStream
  intro s ready range room
  rw [← comp_maxLen] at room
  have writes := encWrites_of_ready (x := comp) (i := .compEnc) (fun _ => rfl) comp_bounded ready
    ((comp_encRange _).mpr range) (Nat.mod_one _) room
  rwa [comp_encode_eq, elements_length] at writes

/-- Settles O39: the three commands make the same checks, each with its own codec's parameters. -/
theorem encChecksInOrder : Obligations.EncChecksInOrder := by
  unfold Obligations.EncChecksInOrder
  intro s
  rw [← bp_maxLen, ← svb_maxLen, ← comp_maxLen]
  have noRange (x : Codec) (h : x.encRange = fun _ => true) (n : Nat) : x.encRange n = true ↔ True := by simp [h]
  exact ⟨encChecks_of_codec (x := bp) (fun _ => rfl) (noRange bp rfl),
    encChecks_of_codec (x := svb) (fun _ => rfl) (noRange svb rfl),
    encChecks_of_codec (x := comp) (fun _ => rfl) comp_encRange⟩

/-- Settles O46: all three are one command around the codec's decoder, and `COMP`'s decoder is that of its two slices. -/
theorem decWritesTheValues : Obligations.DecWritesTheValues := by
  unfold Obligations.DecWritesTheValues
  intro s ys used
  refine ⟨comp_decode_eq_some_iff, fun ready => ⟨fun decodes => ?_, fun decodes => ?_, fun decodes => ?_⟩⟩
  · exact decWrites_of_decodes (x := bp) (fun _ => rfl) ready bp_bounded decodes
  · exact decWrites_of_decodes (x := svb) (fun _ => rfl) ready svb_bounded decodes
  · exact decWrites_of_decodes (x := comp) (fun _ => rfl) ready comp_bounded (comp_decode_eq_some_iff.mpr decodes)

/-- Settles O47: `COMP`'s decoder returns nothing exactly where no pair of decodings of the two slices exists. -/
theorem decOfCorruptDataLeavesTheWindowFree : Obligations.DecOfCorruptDataLeavesTheWindowFree := by
  unfold Obligations.DecOfCorruptDataLeavesTheWindowFree
  intro s ready
  have compTruncated (corrupt : comp.decode (stream s) s.dstCap.toNat = none) : DecTruncated .compDec s :=
    decTruncated_of_none (x := comp) (fun _ => rfl) ready corrupt
  refine ⟨decTruncated_of_none (x := bp) (fun _ => rfl) ready, decTruncated_of_none (x := svb) (fun _ => rfl) ready,
    compTruncated, fun noDecoding => compTruncated ?_⟩
  exact Option.eq_none_iff_forall_not_mem.mpr fun p decodes => noDecoding p.1 p.2 (comp_decode_eq_some_iff.mp decodes)

/-- Settles O48: the checks come before the stream is read, so they are those of every codec. -/
theorem decChecksInOrder : Obligations.DecChecksInOrder := by
  unfold Obligations.DecChecksInOrder
  intro s i hi
  obtain ⟨x, runs⟩ := exec_dec hi
  have raises {c : Cause} (h : decFault s = some c) : exec i s = .next (faulted c.number s) :=
    (runs s).trans (congrArg _ (runDec_of_fault x h))
  exact ⟨fun range => raises (decFault_of_not_fits range), fun src dst =>
    ⟨fun share => raises (decFault_of_share src dst share),
      fun apart closed => raises (decFault_of_inaccessible src dst apart closed)⟩⟩

end Sys2Proof.Proofs
end

section
/-!
PROOFS. What the queries of the codec contract promise of the encoders and decoders (42_codec_contract.md R172, R173).
-/

namespace Sys2Proof.Machine

/-- The query `DecLen` gives the number of values of whatever decodes (42_codec_contract.md R173). -/
def Codec.DecLenExact (x : Codec) : Prop :=
  ∀ s cap ys used, x.decode s cap = some (ys, used) → ∃ header, x.decLen s = some (ys.length, header)

/-- Only whole miniblocks decode, as many as the count says. -/
theorem bpDecode_count {s : List Byte} {cap : Nat} {ys : List Word} {used : Nat} (h : bpDecode s cap = some (ys, used)) :
    4 ≤ s.length ∧ ys.length = (u32at s 0).toNat := by
  simp only [bpDecode] at h
  split_ifs at h with short whole _
  split at h
  · cases h
  · next blocks =>
    split_ifs at h
    cases h
    rw [undelta4_length, bpSuperblocks_length blocks, ceilDiv]
    omega

theorem svbDecode_count {s : List Byte} {cap : Nat} {ys : List Word} {used : Nat} (h : svbDecode s cap = some (ys, used)) :
    4 ≤ s.length ∧ ys.length = (u32at s 0).toNat := by
  simp only [svbDecode] at h
  split_ifs at h with short _ _
  split at h
  · cases h
  · next values =>
    cases h
    exact ⟨Nat.le_of_not_lt short, svbValues_length values⟩

theorem countHeader_of_count {s : List Byte} {n : Nat} (h : 4 ≤ s.length ∧ n = (u32at s 0).toNat) :
    ∃ header, countHeader s = some (n, header) :=
  ⟨4, h.2 ▸ countHeader_of_long h.1⟩

theorem bp_decLenExact : bp.DecLenExact := fun _ _ _ _ decodes => countHeader_of_count (bpDecode_count decodes)

theorem svb_decLenExact : svb.DecLenExact := fun _ _ _ _ decodes => countHeader_of_count (svbDecode_count decodes)

theorem composite_decLenExact {a z : Codec} (ha : a.DecLenExact) (hz : z.DecLenExact) : (composite a z).DecLenExact := by
  intro s cap ys used decodes
  obtain ⟨bulk, rest, ya, yz, cz, slices, decodesBulk, decodesRest, rfl, _⟩ := compositeDecode_eq_some_iff.mp decodes
  obtain ⟨headerA, countA⟩ := ha _ _ _ _ decodesBulk
  obtain ⟨headerZ, countZ⟩ := hz _ _ _ _ decodesRest
  exact ⟨4 + headerA + headerZ, by simp [composite, compositeDecLen, slices, countA, countZ]⟩

theorem comp_decLenExact : comp.DecLenExact := composite_decLenExact bp_decLenExact svb_decLenExact

end Sys2Proof.Machine

namespace Sys2Proof.Proofs

open Sys2Proof.Machine

/-- Settles O57: the bound that makes the capacity check of an `ENC` enough. -/
theorem maxLenIsASafeBound : Obligations.MaxLenIsASafeBound := by
  unfold Obligations.MaxLenIsASafeBound
  exact fun x => ⟨fun _ => bp_bounded.1 x, svb_bounded.1 x, comp_bounded.1 x⟩

/-- Settles O58: a stream of `BP` or `SVB` begins with its count, and what decodes has as many values as its count says. -/
theorem decLenIsExact : Obligations.DecLenIsExact := by
  unfold Obligations.DecLenIsExact
  refine ⟨fun x small => ⟨fun _ => ?_, ?_⟩, fun s cap ys used x hx => ?_⟩
  · exact countHeader_le32_append small _
  · exact (congrArg countHeader (List.append_assoc _ _ _)).trans (countHeader_le32_append small _)
  · simp only [List.mem_cons, List.not_mem_nil, or_false] at hx
    obtain rfl | rfl | rfl := hx
    · exact bp_decLenExact s cap ys used
    · exact svb_decLenExact s cap ys used
    · exact comp_decLenExact s cap ys used

end Sys2Proof.Proofs
end

section
/-!
PROOFS. `Pack` and `Unpack` (43_block_codec.md R195): both go through one number for each lane, which is the delta fields side by side
and the words side by side. A number of a known size and its fields of one width determine each other, so both ways come back.
-/

namespace Sys2Proof.Machine

/-! ### A number and its fields -/

/-- The first `n` fields of `b` bits of a number, the lowest first. -/
def fieldsOf (b n N : Nat) : List Word := (List.range n).map fun i => BitVec.ofNat 32 ((N >>> (b * i)) % 2 ^ b)

theorem fieldsOf_succ (b n N : Nat) : fieldsOf b (n + 1) N = BitVec.ofNat 32 (N % 2 ^ b) :: fieldsOf b n (N >>> b) := by
  simp [fieldsOf, List.range_succ_eq_map, Function.comp_def, ← Nat.shiftRight_add, Nat.mul_succ, Nat.add_comm]

theorem packFields_lt {b : Nat} {fs : List Word} (small : ∀ f ∈ fs, f.toNat < 2 ^ b) :
    packFields b fs < 2 ^ (b * fs.length) := by
  induction fs with
  | nil => simp [packFields]
  | cons f fs ih =>
    obtain ⟨first, others⟩ := List.forall_mem_cons.mp small
    calc packFields b (f :: fs)
      _ < 2 ^ b * (packFields b fs + 1) := by rw [packFields, Nat.mul_succ]; omega
      _ ≤ 2 ^ b * 2 ^ (b * fs.length) := Nat.mul_le_mul_left _ (ih others)
      _ = 2 ^ (b * (f :: fs).length) := by rw [← Nat.pow_add, List.length_cons, Nat.mul_succ, Nat.add_comm]

theorem packFields_append_singleton (b : Nat) (fs : List Word) (f : Word) :
    packFields b (fs ++ [f]) = packFields b fs + f.toNat * 2 ^ (b * fs.length) := by
  induction fs with
  | nil => simp [packFields]
  | cons g fs ih =>
    rw [List.cons_append, packFields, ih, packFields, List.length_cons, Nat.mul_succ, Nat.pow_add]
    ring

theorem fieldsOf_packFields {b : Nat} {fs : List Word} (small : ∀ f ∈ fs, f.toNat < 2 ^ b) :
    fieldsOf b fs.length (packFields b fs) = fs := by
  induction fs with
  | nil => rfl
  | cons f fs ih =>
    obtain ⟨first, others⟩ := List.forall_mem_cons.mp small
    have lowest : packFields b (f :: fs) % 2 ^ b = f.toNat := by
      rw [packFields, Nat.add_mul_mod_self_left, Nat.mod_eq_of_lt first]
    have behind : packFields b (f :: fs) >>> b = packFields b fs := by
      rw [packFields, Nat.shiftRight_eq_div_pow, Nat.add_mul_div_left _ _ (Nat.two_pow_pos b), Nat.div_eq_of_lt first,
        Nat.zero_add]
    rw [List.length_cons, fieldsOf_succ, lowest, behind, ih others, BitVec.ofNat_toNat, BitVec.setWidth_eq]

theorem packFields_fieldsOf {b n N : Nat} (hb : b ≤ 32) (bounded : N < 2 ^ (b * n)) : packFields b (fieldsOf b n N) = N := by
  induction n generalizing N with
  | zero =>
    have : N = 0 := by simpa using bounded
    rw [this]
    rfl
  | succ n ih =>
    have fits : N % 2 ^ b < 2 ^ 32 :=
      (Nat.mod_lt N (Nat.two_pow_pos b)).trans_le (Nat.pow_le_pow_right (by decide) hb)
    have behind : N >>> b < 2 ^ (b * n) := by
      rw [Nat.shiftRight_eq_div_pow]
      exact Nat.div_lt_of_lt_mul (by rwa [← Nat.pow_add, Nat.add_comm, ← Nat.mul_succ])
    rw [fieldsOf_succ, packFields, ih behind, BitVec.toNat_ofNat, Nat.mod_eq_of_lt fits, Nat.shiftRight_eq_div_pow,
      Nat.mod_add_div]

/-! ### The lanes of a sequence -/

/-- The first `n` elements of lane `j` of a sequence of groups of four. -/
def lane (xs : List Word) (j n : Nat) : List Word := (List.range n).map fun i => xs.getD (4 * i + j) 0

@[simp] theorem lane_length (xs : List Word) (j n : Nat) : (lane xs j n).length = n := by simp [lane]

theorem laneOf_eq_lane (d : List Word) (j : Nat) : laneOf d j = lane d j 32 := rfl

theorem eq_of_lane_eq {xs ys : List Word} {n : Nat} (hx : xs.length = 4 * n) (hy : ys.length = 4 * n)
    (h : ∀ j < 4, lane xs j n = lane ys j n) : xs = ys := by
  refine List.ext_getElem (hx.trans hy.symm) fun i hi hi' => ?_
  have element := congrArg (fun l => l.getD (i / 4) 0) (h (i % 4) (Nat.mod_lt i (by decide)))
  have group : i / 4 < n := by omega
  simpa [lane, group, hi, hi', Nat.div_add_mod, List.getD_eq_getElem?_getD] using element

theorem lane_flatMap_range_four (g : Nat → Nat → Word) (n : Nat) {j : Nat} (hj : j < 4) :
    lane ((List.range n).flatMap fun t => (List.range 4).map (g t)) j n = (List.range n).map fun t => g t j :=
  List.map_congr_left fun _ ht => flatMap_range_four_getD g (List.mem_range.mp ht) hj 0

theorem lane_unpack (w : List Word) (b : Nat) {j : Nat} (hj : j < 4) :
    lane (unpack w b) j 32 = fieldsOf b 32 (laneNumber w j b) :=
  lane_flatMap_range_four _ 32 hj

theorem lane_pack (d : List Word) (b : Nat) {j : Nat} (hj : j < 4) :
    lane (pack d b) j b = fieldsOf 32 b (packFields b (laneOf d j)) := by
  rw [pack, lane_flatMap_range_four _ b hj, fieldsOf]
  exact List.map_congr_left fun t _ => BitVec.eq_of_toNat_eq (by simp)

/-- The number of a lane is its words side by side (43_block_codec.md R195). -/
theorem laneNumber_eq_packFields (w : List Word) (j b : Nat) : laneNumber w j b = packFields 32 (lane w j b) := by
  induction b with
  | zero => rfl
  | succ b ih =>
    have last : lane w j (b + 1) = lane w j b ++ [w.getD (4 * b + j) 0] := by simp [lane, List.range_succ]
    rw [laneNumber, ih, last, packFields_append_singleton, lane_length]

theorem lane_toNat_lt (w : List Word) (j b : Nat) : ∀ f ∈ lane w j b, f.toNat < 2 ^ 32 := fun f _ => f.isLt

/-- The number of a lane survives being cut into words. -/
theorem laneNumber_pack {d : List Word} {b : Nat} (small : ∀ x ∈ d, x.toNat < 2 ^ b) {j : Nat} (hj : j < 4) :
    laneNumber (pack d b) j b = packFields b (laneOf d j) := by
  have bounded := packFields_lt (laneOf_toNat_lt small j)
  rw [laneOf_eq_lane, lane_length, Nat.mul_comm] at bounded
  rw [laneNumber_eq_packFields, lane_pack d b hj, laneOf_eq_lane, packFields_fieldsOf le_rfl bounded]

/-- The number of a lane survives being cut into deltas. -/
theorem packFields_laneOf_unpack (w : List Word) {b : Nat} (hb : b ≤ 32) {j : Nat} (hj : j < 4) :
    packFields b (laneOf (unpack w b) j) = laneNumber w j b := by
  have bounded := packFields_lt (lane_toNat_lt w j b)
  rw [lane_length, Nat.mul_comm, ← laneNumber_eq_packFields] at bounded
  rw [laneOf_eq_lane, lane_unpack w b hj, packFields_fieldsOf hb bounded]

theorem unpack_pack {d : List Word} {b : Nat} (hd : d.length = 128) (small : ∀ x ∈ d, x.toNat < 2 ^ b) :
    unpack (pack d b) b = d := by
  refine eq_of_lane_eq (n := 32) (unpack_length _ b) hd fun j hj => ?_
  have fields := fieldsOf_packFields (laneOf_toNat_lt small j)
  rw [laneOf_eq_lane, lane_length] at fields
  rw [lane_unpack _ b hj, laneNumber_pack small hj, laneOf_eq_lane, fields]

theorem pack_unpack {w : List Word} {b : Nat} (hw : w.length = 4 * b) (hb : b ≤ 32) : pack (unpack w b) b = w := by
  refine eq_of_lane_eq (pack_length _ b) hw fun j hj => ?_
  have words := fieldsOf_packFields (lane_toNat_lt w j b)
  rw [lane_length] at words
  rw [lane_pack _ b hj, packFields_laneOf_unpack w hb hj, laneNumber_eq_packFields, words]

/-! ### The vector forms -/

/-- A field below the shifted ones shares no bit with them, so OR adds (43_block_codec.md R203). -/
theorem packFieldsOr_eq {b : Nat} {fs : List Word} (small : ∀ f ∈ fs, f.toNat < 2 ^ b) :
    packFieldsOr b fs = packFields b fs := by
  induction fs with
  | nil => rfl
  | cons f fs ih =>
    obtain ⟨first, others⟩ := List.forall_mem_cons.mp small
    rw [packFieldsOr, packFields, ih others, Nat.or_comm, ← Nat.shiftLeft_add_eq_or_of_lt first, Nat.shiftLeft_eq, Nat.add_comm,
      Nat.mul_comm]

theorem hOr_map2_or (u v : Vec) : hOr (Vec.map2 (· ||| ·) u v) = hOr u ||| hOr v := by
  simp only [hOr, Vec.map2]
  ac_rfl

/-- The lanes of the accumulator hold between them the OR of all deltas (43_block_codec.md R203). -/
theorem hOr_orGroups {count : Nat} {d : List Word} (h : d.length = 4 * count) : hOr (orGroups count d) = orAll d := by
  induction count generalizing d with
  | zero =>
    rw [List.eq_nil_of_length_eq_zero h]
    rfl
  | succ count ih =>
    match d, h with
    | x :: y :: z :: u :: rest, h =>
      have others : rest.length = 4 * count := by
        simp only [List.length_cons] at h
        omega
      calc hOr (orGroups (count + 1) (x :: y :: z :: u :: rest))
        _ = hOr ⟨x, y, z, u⟩ ||| hOr (orGroups count rest) := hOr_map2_or _ _
        _ = orAll (x :: y :: z :: u :: rest) := by
          rw [ih others]
          simp only [hOr, orAll, BitVec.or_assoc]

end Sys2Proof.Machine

namespace Sys2Proof.Proofs

open Sys2Proof.Machine

/-- Settles O41: the number of each lane survives either way. -/
theorem packAndUnpackAreInverse : Obligations.PackAndUnpackAreInverse := by
  unfold Obligations.PackAndUnpackAreInverse
  exact ⟨fun _ _ hd _ small => unpack_pack hd small, fun _ _ hw hb => pack_unpack hw hb⟩

/-- Settles O53: the OR of all deltas goes through the accumulator, and in a column OR adds. -/
theorem bpVectorFormsAgree : Obligations.BpVectorFormsAgree := by
  unfold Obligations.BpVectorFormsAgree
  refine ⟨fun d hd => ?_, fun _ _ small => packFieldsOr_eq small⟩
  rw [bpWidthVectors, maxBits, hOr_orGroups (count := 32) hd, bpWidth]

end Sys2Proof.Proofs
end

section
/-!
PROOFS. What `BP_Decode` accepts and returns (43_block_codec.md R198): given the widths that a stream states, the decoder goes through
the places that the stream format gives each part (30_encoding.md R102 to R106), and ends where the last miniblock does.
-/

namespace Sys2Proof.Machine

open Sys2Proof.Claims

/-! ### Words and bytes of a stream -/

/-- The bytes of a number are its digits to the base 256 (20_memory.md R60). -/
theorem leNat_digit (bs : List Byte) (i : Nat) : leNat bs / 256 ^ i % 256 = (bs.getD i 0).toNat := by
  induction bs generalizing i with
  | nil => simp [leNat]
  | cons b bs ih =>
    have first : b.toNat < 256 := b.isLt
    cases i with
    | zero =>
      rw [Nat.pow_zero, Nat.div_one, leNat, Nat.add_mul_mod_self_left, Nat.mod_eq_of_lt first, List.getD_cons_zero]
    | succ i =>
      have behind : leNat (b :: bs) / 256 = leNat bs := by rw [leNat]; omega
      rw [Nat.pow_succ', ← Nat.div_div_eq_div_mul, behind, ih, List.getD_cons_succ]

theorem leNat_lt (bs : List Byte) : leNat bs < 256 ^ bs.length := by
  induction bs with
  | nil => simp [leNat]
  | cons b bs ih =>
    have first : b.toNat < 256 := b.isLt
    rw [leNat, List.length_cons, Nat.pow_succ]
    omega

theorem u32at_toNat (s : List Byte) (p : Nat) : (u32at s p).toNat = leNat ((s.drop p).take 4) := by
  have bytes : ((s.drop p).take 4).length ≤ 4 := List.length_take_le 4 _
  have bound : leNat ((s.drop p).take 4) < 2 ^ 32 := (leNat_lt _).trans_le (Nat.pow_le_pow_right (by decide) bytes)
  rw [u32at, BitVec.toNat_ofNat, uat, Nat.mod_eq_of_lt bound]

/-- Width byte `q` of a header: the first of four is the last byte of its word (30_encoding.md R103). -/
theorem headerWidth_eq (s : List Byte) (q : Nat) : headerWidth s q = (s.getD (4 * (q / 4) + (3 - q % 4)) 0).toNat := by
  have shift : 24 - 8 * (q % 4) = 8 * (3 - q % 4) := by omega
  rw [headerWidth, shift, Nat.shiftRight_eq_div_pow, Nat.pow_mul, u32at_toNat, leNat_digit, take_drop_getD _ _ (by omega)]

theorem u32at_append {s : List Byte} {p : Nat} (h : p + 4 ≤ s.length) (more : List Byte) :
    u32at (s ++ more) p = u32at s p := by
  rw [← u32at_take (s := s ++ more) h, List.take_left]

theorem wordsOf_eq (count : Nat) (s : List Byte) : wordsOf count s = (List.range count).map fun t => u32at s (4 * t) := by
  induction count generalizing s with
  | zero => rfl
  | succ count ih =>
    simp [wordsOf, ih, List.range_succ_eq_map, u32at_drop, Function.comp_def, Nat.mul_succ, Nat.add_comm]

/-! ### Miniblocks -/

/-- The deltas of the miniblock of width `b` whose packed data begins at position `p` (43_block_codec.md R198). -/
def miniblockAt (s : List Byte) (p b : Nat) : List Word := unpack ((List.range (4 * b)).map fun t => u32at s (p + 4 * t)) b

theorem miniblockAt_drop (s : List Byte) (n p b : Nat) : miniblockAt (s.drop n) p b = miniblockAt s (n + p) b := by
  simp [miniblockAt, u32at_drop, Nat.add_assoc]

theorem bpMiniblocks_cons_eq_some_iff {b : Nat} {bs : List Nat} {s rest : List Byte} {d : List Word} :
    bpMiniblocks (b :: bs) s = some (d, rest) ↔
      b ≤ 32 ∧ 16 * b ≤ s.length ∧
        ∃ ds, bpMiniblocks bs (s.drop (16 * b)) = some (ds, rest) ∧ d = miniblockAt s 0 b ++ ds := by
  have first : unpack (wordsOf (4 * b) s) b = miniblockAt s 0 b := by simp [miniblockAt, wordsOf_eq]
  rw [bpMiniblocks, first]
  split_ifs with wide short
  · simp [wide]
  · simp [short]
  · cases bpMiniblocks bs (s.drop (16 * b)) with
    | none => simp
    | some p =>
      obtain ⟨ds, last⟩ := p
      simp only [Option.some.injEq, Prod.mk.injEq, Nat.le_of_not_lt wide, Nat.le_of_not_lt short, true_and]
      constructor
      · rintro ⟨rfl, rfl⟩
        exact ⟨ds, ⟨rfl, rfl⟩, rfl⟩
      · rintro ⟨_, ⟨rfl, rfl⟩, rfl⟩
        exact ⟨rfl, rfl⟩

theorem bpDataBytes_succ (w : Nat → Nat) (r : Nat) :
    bpDataBytes w (r + 1) = 16 * w 0 + bpDataBytes (fun q => w (q + 1)) r := by
  rw [Nat.add_comm r, bpDataBytes_add]
  simp [Nat.add_comm]

/-- Miniblocks of given widths, one behind the other. -/
theorem bpMiniblocks_eq_some_iff {w : Nat → Nat} {r : Nat} {s rest : List Byte} {d : List Word} :
    bpMiniblocks ((List.range r).map w) s = some (d, rest) ↔
      (∀ q < r, w q ≤ 32) ∧ bpDataBytes w r ≤ s.length ∧
        d = ((List.range r).flatMap fun q => miniblockAt s (bpDataBytes w q) (w q)) ∧ rest = s.drop (bpDataBytes w r) := by
  induction r generalizing w s d with
  | zero => simp [bpMiniblocks, bpDataBytes, eq_comm]
  | succ r ih =>
    have widths : (List.range (r + 1)).map w = w 0 :: (List.range r).map fun q => w (q + 1) := by
      simp [List.range_succ_eq_map, Function.comp_def]
    have values : ((List.range (r + 1)).flatMap fun q => miniblockAt s (bpDataBytes w q) (w q)) =
        miniblockAt s 0 (w 0) ++ (List.range r).flatMap fun q =>
          miniblockAt (s.drop (16 * w 0)) (bpDataBytes (fun q => w (q + 1)) q) (w (q + 1)) := by
      simp only [List.range_succ_eq_map, List.flatMap_cons, List.flatMap_map, miniblockAt_drop, bpDataBytes_succ]
      rfl
    rw [widths, bpMiniblocks_cons_eq_some_iff, values, bpDataBytes_succ, ← List.drop_drop]
    simp only [ih, List.length_drop]
    constructor
    · rintro ⟨narrow, room, _, ⟨narrows, rooms, rfl, rfl⟩, rfl⟩
      exact ⟨Nat.forall_lt_succ_left.mpr ⟨narrow, narrows⟩, by omega, rfl, rfl⟩
    · rintro ⟨narrows, room, rfl, rfl⟩
      obtain ⟨narrow, narrows⟩ := Nat.forall_lt_succ_left.mp narrows
      exact ⟨narrow, by omega, _, ⟨narrows, by omega, rfl, rfl⟩, rfl⟩

/-! ### Superblocks -/

/-- Where the first `a` miniblocks of a stream end, their widths and the headers of their superblocks with them (30_encoding.md R106). -/
def bpEndOf (w : Nat → Nat) (a : Nat) : Nat := 4 + 4 * ((a + 3) / 4) + bpDataBytes w a

@[simp] theorem bpEndOf_zero (w : Nat → Nat) : bpEndOf w 0 = 4 := rfl

theorem bpTotal_eq_bpEndOf (w : Nat → Nat) (m : Nat) : bpTotal w m = bpEndOf w m := by
  rw [bpTotal, bpEndOf]
  omega

theorem bpEndOf_add (w : Nat → Nat) {a : Nat} (full : a % 16 = 0) (r : Nat) :
    bpEndOf w (a + r) = bpEndOf w a + 4 * ((r + 3) / 4) + bpDataBytes (fun q => w (a + q)) r := by
  rw [bpEndOf, bpEndOf, bpDataBytes_add]
  omega

theorem bpEndOf_mono (w : Nat → Nat) {a m : Nat} (h : a ≤ m) : bpEndOf w a ≤ bpEndOf w m := by
  obtain ⟨r, rfl⟩ := Nat.exists_eq_add_of_le h
  rw [bpEndOf, bpEndOf, bpDataBytes_add]
  omega

theorem bpWidthAt_eq (w : Nat → Nat) {a q : Nat} (full : a % 16 = 0) (hq : q < 16) :
    bpWidthAt w ((a + q) / 16) ((a + q) % 16) = bpEndOf w a + (4 * (q / 4) + (3 - q % 4)) := by
  have place : (a + q) / 16 = a / 16 ∧ (a + q) % 16 = q ∧ 16 * (a / 16) = a := by omega
  obtain ⟨superblock, slot, start⟩ := place
  rw [bpWidthAt, bpHeaderAt, bpEndOf, superblock, slot, start]
  omega

theorem bpDataAt_eq (w : Nat → Nat) {m a q : Nat} (full : a % 16 = 0) (hq : q < 16) :
    bpDataAt w m (a + q) =
      bpEndOf w a + 4 * ((min 16 (m - a) + 3) / 4) + bpDataBytes (fun i => w (a + i)) q := by
  have place : (a + q) / 16 = a / 16 ∧ 16 * (a / 16) = a := by omega
  obtain ⟨superblock, start⟩ := place
  rw [bpDataAt, superblock, start, bpEndOf, bpDataBytes_add]
  omega

theorem bpSuperblocks_succ_eq_some_iff {count m : Nat} {s rest : List Byte} {d : List Word} :
    bpSuperblocks (count + 1) m s = some (d, rest) ↔
      4 * ((min 16 m + 3) / 4) ≤ s.length ∧ ∃ first next others,
        bpMiniblocks ((List.range (min 16 m)).map (headerWidth s)) (s.drop (4 * ((min 16 m + 3) / 4))) = some (first, next) ∧
        bpSuperblocks count (m - min 16 m) next = some (others, rest) ∧ d = first ++ others := by
  have words : ceilDiv (min 16 m) 4 = (min 16 m + 3) / 4 := rfl
  rw [bpSuperblocks, words]
  split_ifs with short
  · simp [short]
  · simp only [Nat.le_of_not_lt short, true_and]
    split
    · next fails => simp [fails]
    · next first next blocks =>
      split
      · next fails => simp [blocks, fails]
      · next others last superblocks => simp [blocks, superblocks, eq_comm, and_comm]

/-- The widths of the first `m` miniblocks are `w`, as the header bytes have them (30_encoding.md R103). -/
def StatesWidths (s : List Byte) (m : Nat) (w : Nat → Nat) : Prop :=
  ∀ k < m, (s.getD (bpWidthAt w (k / 16) (k % 16)) 0).toNat = w k

theorem StatesWidths.headerWidth_eq {s : List Byte} {m : Nat} {w : Nat → Nat} (states : StatesWidths s m w) {a q : Nat}
    (full : a % 16 = 0) (hq : q < 16) (inside : a + q < m) : headerWidth (s.drop (bpEndOf w a)) q = w (a + q) := by
  rw [Machine.headerWidth_eq, ← states (a + q) inside, bpWidthAt_eq w full hq]
  simp [List.getD_eq_getElem?_getD]

theorem bpWidthAt_lt_bpEndOf (w : Nat → Nat) {k m : Nat} (hk : k < m) : bpWidthAt w (k / 16) (k % 16) < bpEndOf w m := by
  have before := bpEndOf_mono w (show 16 * (k / 16) + (k % 16 + 1) ≤ m by omega)
  rw [bpEndOf_add w (Nat.mul_mod_right 16 _)] at before
  have here := bpWidthAt_eq w (Nat.mul_mod_right 16 (k / 16)) (Nat.mod_lt k (by decide))
  rw [Nat.div_add_mod] at here
  omega

/-- Where a width byte lies depends only on widths of earlier miniblocks. -/
theorem bpWidthAt_update (w : Nat → Nat) (v : Nat) {k m : Nat} (hk : k ≤ m) :
    bpWidthAt (Function.update w m v) (k / 16) (k % 16) = bpWidthAt w (k / 16) (k % 16) := by
  have before : (List.range (16 * (k / 16))).map (Function.update w m v) = (List.range (16 * (k / 16))).map w :=
    List.map_congr_left fun j hj => Function.update_of_ne (by simp at hj; omega) v w
  rw [bpWidthAt, bpHeaderAt, bpDataBytes, before]

/-- Every stream states some widths, each behind the data of those before. -/
theorem exists_statesWidths (s : List Byte) (m : Nat) : ∃ w, StatesWidths s m w := by
  induction m with
  | zero => exact ⟨fun _ => 0, fun _ h => absurd h (by omega)⟩
  | succ m ih =>
    obtain ⟨w, states⟩ := ih
    refine ⟨Function.update w m (s.getD (bpWidthAt w (m / 16) (m % 16)) 0).toNat,
      Nat.forall_lt_succ_right.mpr ⟨fun k hk => ?_, ?_⟩⟩
    · rw [bpWidthAt_update w _ hk.le, states k hk, Function.update_of_ne hk.ne]
    · rw [bpWidthAt_update w _ le_rfl, Function.update_self]

theorem StatesWidths.append {s : List Byte} {m : Nat} {w : Nat → Nat} (states : StatesWidths s m w)
    (whole : bpEndOf w m ≤ s.length) (more : List Byte) : StatesWidths (s ++ more) m w := fun k hk => by
  rw [List.getD_append _ _ _ _ ((bpWidthAt_lt_bpEndOf w hk).trans_le whole), states k hk]

/-- Behind the first `a` miniblocks the decoder takes those that are left from where the format puts them. -/
theorem bpSuperblocks_eq_some_iff {s rest : List Byte} {m : Nat} {w : Nat → Nat} (states : StatesWidths s m w)
    {count a left : Nat} (hm : a + left = m) (hc : (left + 15) / 16 = count) (begins : left = 0 ∨ a % 16 = 0)
    (inside : bpEndOf w a ≤ s.length) {d : List Word} :
    bpSuperblocks count left (s.drop (bpEndOf w a)) = some (d, rest) ↔
      (∀ q < left, w (a + q) ≤ 32) ∧ bpEndOf w m ≤ s.length ∧
        d = ((List.range left).flatMap fun q => miniblockAt s (bpDataAt w m (a + q)) (w (a + q))) ∧
        rest = s.drop (bpEndOf w m) := by
  induction count generalizing a left d with
  | zero =>
    obtain rfl : left = 0 := by omega
    obtain rfl : a = m := hm
    simp [bpSuperblocks, inside, eq_comm]
  | succ count ih =>
    have full : a % 16 = 0 := by omega
    obtain ⟨r, hr⟩ : ∃ r, r = min 16 left := ⟨_, rfl⟩
    obtain ⟨others, rfl⟩ : ∃ others, left = r + others := Nat.exists_eq_add_of_le (by omega)
    have size : min 16 (m - a) = r := by omega
    have remaining : r + others - r = others := Nat.add_sub_cancel_left r others
    have widths : (List.range r).map (headerWidth (s.drop (bpEndOf w a))) = (List.range r).map fun q => w (a + q) :=
      List.map_congr_left fun q hq => states.headerWidth_eq full (by simp at hq; omega) (by simp at hq; omega)
    have position := bpEndOf_add w full r
    have ends := bpEndOf_mono w (show a + r ≤ m by omega)
    have first : ((List.range r).flatMap fun q => miniblockAt s (bpDataAt w m (a + q)) (w (a + q))) =
        (List.range r).flatMap fun q =>
          miniblockAt (s.drop (bpEndOf w a + 4 * ((r + 3) / 4))) (bpDataBytes (fun q => w (a + q)) q) (w (a + q)) := by
      refine List.flatMap_congr fun q hq => ?_
      rw [bpDataAt_eq w full (by simp at hq; omega), size, miniblockAt_drop]
    have values : ((List.range (r + others)).flatMap fun q => miniblockAt s (bpDataAt w m (a + q)) (w (a + q))) =
        ((List.range r).flatMap fun q => miniblockAt s (bpDataAt w m (a + q)) (w (a + q))) ++
          (List.range others).flatMap fun q => miniblockAt s (bpDataAt w m (a + r + q)) (w (a + r + q)) := by
      simp [List.range_add, List.flatMap_map, Nat.add_assoc]
    have behind (inside : bpEndOf w (a + r) ≤ s.length) {e : List Word} :=
      ih (a := a + r) (left := others) (by omega) (by omega) (by omega) inside (d := e)
    rw [bpSuperblocks_succ_eq_some_iff, ← hr, widths, remaining, List.drop_drop, List.length_drop, values, first]
    simp only [bpMiniblocks_eq_some_iff, List.length_drop, List.drop_drop, ← position]
    constructor
    · rintro ⟨header, _, _, e, ⟨narrow, room, rfl, rfl⟩, later, rfl⟩
      obtain ⟨narrows, whole, rfl, rfl⟩ := (behind (by omega)).mp later
      refine ⟨fun q hq => ?_, whole, rfl, rfl⟩
      rcases Nat.lt_or_ge q r with here | there
      · exact narrow q here
      · obtain ⟨q, rfl⟩ := Nat.exists_eq_add_of_le there
        rw [← Nat.add_assoc]
        exact narrows q (by omega)
    · rintro ⟨narrow, whole, rfl, rfl⟩
      refine ⟨by omega, _, _, _, ⟨fun q hq => narrow q (by omega), by omega, rfl, rfl⟩,
        (behind (by omega)).mpr ⟨fun q hq => ?_, whole, rfl, rfl⟩, rfl⟩
      rw [Nat.add_assoc]
      exact narrow (r + q) (by omega)

end Sys2Proof.Machine
end

section
/-!
PROOFS. `BP_Decode` on a whole stream (43_block_codec.md R198, R202): the streams it accepts are exactly those of the format, with no byte
behind them, and the streams that `BP_Encode` writes are among them.
-/

namespace Sys2Proof.Machine

open Sys2Proof.Claims

/-! ### A whole stream -/

theorem bpSuperblocks_all_eq_some_iff {s rest : List Byte} {m : Nat} {w : Nat → Nat} (states : StatesWidths s m w)
    (long : 4 ≤ s.length) {d : List Word} :
    bpSuperblocks ((m + 15) / 16) m (s.drop 4) = some (d, rest) ↔
      (∀ k < m, w k ≤ 32) ∧ bpEndOf w m ≤ s.length ∧
        d = ((List.range m).flatMap fun k => miniblockAt s (bpDataAt w m k) (w k)) ∧ rest = s.drop (bpEndOf w m) := by
  have all := bpSuperblocks_eq_some_iff (rest := rest) (d := d) states (Nat.zero_add m) rfl (.inr rfl) (a := 0) long
  simpa only [Nat.zero_add, bpEndOf_zero] using all

theorem bpDecode_eq_some_iff {s : List Byte} {cap : Nat} {ys : List Word} {used : Nat} :
    bpDecode s cap = some (ys, used) ↔
      4 ≤ s.length ∧ used = s.length ∧ ∃ m, (u32at s 0).toNat = 128 * m ∧ 128 * m ≤ cap ∧
        ∃ d, bpSuperblocks ((m + 15) / 16) m (s.drop 4) = some (d, []) ∧ ys = undelta4 d := by
  by_cases whole : ∃ m, (u32at s 0).toNat = 128 * m
  · obtain ⟨m, count⟩ := whole
    have blocks : ceilDiv (128 * m / 128) 16 = (m + 15) / 16 ∧ 128 * m / 128 = m := by
      rw [Nat.mul_div_cancel_left m (by decide)]
      exact ⟨rfl, rfl⟩
    have only : ∀ n, 128 * m = 128 * n ↔ n = m := by omega
    rw [bpDecode, count, blocks.1, blocks.2]
    simp only [only, exists_eq_left]
    split_ifs with short partBlock room
    · simp [short]
    · omega
    · simp [Nat.not_le_of_lt room]
    · cases bpSuperblocks ((m + 15) / 16) m (s.drop 4) with
      | none => simp
      | some p =>
        obtain ⟨d, rest⟩ := p
        cases rest with
        | nil => simp [Nat.le_of_not_lt short, Nat.le_of_not_lt room, eq_comm, and_comm]
        | cons b rest => simp
  · have partBlock : (u32at s 0).toNat % 128 ≠ 0 := fun h => whole ⟨_, (Nat.mul_div_cancel' (Nat.dvd_of_mod_eq_zero h)).symm⟩
    rw [bpDecode, if_pos partBlock, ite_self]
    exact ⟨nofun, fun ⟨_, _, m, count, _⟩ => absurd ⟨m, count⟩ whole⟩

theorem bpDecode_iff_bpDecodes {s : List Byte} {cap : Nat} {ys : List Word} {used : Nat} :
    bpDecode s cap = some (ys, used) ↔ BpDecodes s cap ys used := by
  rw [bpDecode_eq_some_iff]
  refine and_congr_right fun long => and_congr_right fun _ => ?_
  constructor
  · rintro ⟨m, count, room, d, blocks, rfl⟩
    obtain ⟨w, states⟩ := exists_statesWidths s m
    obtain ⟨narrow, whole, rfl, ends⟩ := (bpSuperblocks_all_eq_some_iff states long).mp blocks
    have length : s.length = bpTotal w m :=
      (bpTotal_eq_bpEndOf w m).symm ▸ Nat.le_antisymm (List.drop_eq_nil_iff.mp ends.symm) whole
    exact ⟨m, w, count, room, fun k hk => ⟨narrow k hk, states k hk⟩, length, rfl⟩
  · rintro ⟨m, w, count, room, widths, length, rfl⟩
    rw [bpTotal_eq_bpEndOf] at length
    have states : StatesWidths s m w := fun k hk => (widths k hk).2
    exact ⟨m, count, room, _, (bpSuperblocks_all_eq_some_iff states long).mpr
      ⟨fun k hk => (widths k hk).1, length.ge, rfl, (List.drop_eq_nil_of_le length.le).symm⟩, rfl⟩

/-- What decodes does not decode with more behind it: the decoder ends where it ended, with the rest left over. -/
theorem bpDecode_append {s : List Byte} {cap : Nat} {ys : List Word} {used : Nat} (decodes : bpDecode s cap = some (ys, used))
    {more : List Byte} (nonempty : more ≠ []) : bpDecode (s ++ more) cap = none := by
  obtain ⟨long, _, m, w, count, _, widths, length, _⟩ := bpDecode_iff_bpDecodes.mp decodes
  rw [bpTotal_eq_bpEndOf] at length
  have states : StatesWidths (s ++ more) m w := StatesWidths.append (fun k hk => (widths k hk).2) length.ge more
  refine Option.eq_none_iff_forall_ne_some.mpr fun ⟨zs, used'⟩ longer => nonempty ?_
  obtain ⟨long', _, n, count', _, d, blocks, _⟩ := bpDecode_eq_some_iff.mp longer
  rw [u32at_append long, count] at count'
  obtain rfl : m = n := by omega
  obtain ⟨_, _, _, ends⟩ := (bpSuperblocks_all_eq_some_iff states long').mp blocks
  rw [← length, List.drop_left] at ends
  exact ends.symm

/-! ### A stream of the encoder -/

theorem LiesAt.u32at_eq {v : Word} {s : List Byte} {p : Nat} (h : LiesAt (le32 v) s p) : u32at s p = v := by
  obtain ⟨rest, split⟩ := h
  calc u32at s p
    _ = u32at (s.drop p) 0 := (u32at_drop s p 0).symm
    _ = v := by rw [← split, u32at_le32_append]

theorem LiesAt.words_eq {ws : List Word} {s : List Byte} {p : Nat} (h : LiesAt (bytesOf ws) s p) :
    (List.range ws.length).map (fun t => u32at s (p + 4 * t)) = ws := by
  refine List.ext_getElem (by simp) fun t ht ht' => ?_
  have word := (liesAt_flatMap le32 ht' 0).trans h
  have before : ((ws.take t).flatMap le32).length = 4 * t := by
    rw [← bytesOf, bytesOf_length, List.length_take, Nat.min_eq_left ht'.le]
  rw [before, List.getD_eq_getElem _ _ ht'] at word
  simpa using word.u32at_eq

theorem block_length {x : List Word} {m k : Nat} (hx : x.length = 128 * m) (hk : k < m) : (block x k).length = 128 := by
  rw [List.length_take, List.length_drop, delta4_length]
  omega

theorem orAll_toNat_lt_iff {d : List Word} {b : Nat} : (orAll d).toNat < 2 ^ b ↔ ∀ x ∈ d, x.toNat < 2 ^ b := by
  induction d with
  | nil => simp [orAll]
  | cons x d ih => rw [orAll, or_toNat_lt_two_pow_iff, ih, List.forall_mem_cons]

theorem block_toNat_lt (x : List Word) (k : Nat) : ∀ delta ∈ block x k, delta.toNat < 2 ^ blockWidth x k :=
  orAll_toNat_lt_iff.mp (toNat_lt_two_pow_bits32 _)

theorem flatMap_take_drop {α : Type} (xs : List α) (size m : Nat) :
    ((List.range m).flatMap fun k => (xs.drop (size * k)).take size) = xs.take (size * m) := by
  induction m with
  | zero => simp
  | succ m ih => rw [List.range_succ, List.flatMap_append, ih, List.flatMap_singleton, Nat.mul_succ, List.take_add]

theorem flatMap_block {x : List Word} {m : Nat} (hx : x.length = 128 * m) : (List.range m).flatMap (block x) = delta4 x := by
  rw [flatMap_take_drop, List.take_of_length_le (by rw [delta4_length, hx])]

theorem bpEncode_statesWidths {x : List Word} {m : Nat} (hx : x.length = 128 * m) :
    StatesWidths (bpEncode x) m (blockWidth x) := fun k hk => by
  have small : blockWidth x k < 2 ^ 8 := (bpWidth_le (block x k)).trans_lt (by decide)
  rw [bpEncode_width_byte hx (by omega) (by omega), if_pos (by omega), Nat.div_add_mod, BitVec.toNat_ofNat,
    Nat.mod_eq_of_lt small]

/-- A miniblock of the encoder unpacks to its deltas. -/
theorem miniblockAt_bpEncode {x : List Word} {m k : Nat} (hx : x.length = 128 * m) (hk : k < m) :
    miniblockAt (bpEncode x) (bpDataAt (blockWidth x) m k) (blockWidth x k) = block x k := by
  have words := (packedBlock_liesAt hx hk).words_eq
  rw [pack_length] at words
  rw [miniblockAt, words, unpack_pack (block_length hx hk) (block_toNat_lt x k)]

theorem bpEncode_bpDecodes {x : List Word} {m cap : Nat} (hx : x.length = 128 * m) (counted : x.length < 2 ^ 32)
    (room : x.length ≤ cap) : BpDecodes (bpEncode x) cap x (bpEncode x).length := by
  have count : (u32at (bpEncode x) 0).toNat = 128 * m := by
    rw [bpEncode, u32at_le32_append, BitVec.toNat_ofNat, Nat.mod_eq_of_lt counted, hx]
  have deltas : ((List.range m).flatMap fun k => miniblockAt (bpEncode x) (bpDataAt (blockWidth x) m k) (blockWidth x k)) =
      delta4 x :=
    (List.flatMap_congr fun k hk => miniblockAt_bpEncode hx (List.mem_range.mp hk)).trans (flatMap_block hx)
  refine ⟨by simp [bpEncode], rfl, m, blockWidth x, count, hx ▸ room,
    fun k hk => ⟨bpWidth_le _, bpEncode_statesWidths hx k hk⟩, bpEncode_length hx, ?_⟩
  exact ((congrArg undelta4 deltas).trans (undelta4From_delta4From 0 0 0 0 x)).symm

end Sys2Proof.Machine

namespace Sys2Proof.Proofs

open Sys2Proof.Machine

/-- Settles O49: the decoder goes through the format's places by the widths the stream states, and any byte behind is left over. -/
theorem bpDecodeUsesEveryByte : Obligations.BpDecodeUsesEveryByte := by
  unfold Obligations.BpDecodeUsesEveryByte
  refine fun s cap ys used => ⟨bpDecode_iff_bpDecodes, fun decodes => ?_⟩
  obtain ⟨_, all, m, count, _⟩ := bpDecode_eq_some_iff.mp decodes
  obtain ⟨_, length⟩ := bpDecode_count decodes
  exact ⟨all, length, by omega, bpDecode_length_le decodes, fun more nonempty => bpDecode_append decodes nonempty⟩

/-- Settles O54: the encoder's stream is one that the decoder accepts, and its miniblocks unpack to the deltas. -/
theorem bpRoundTrip : Obligations.BpRoundTrip := by
  unfold Obligations.BpRoundTrip
  intro x cap whole counted room
  obtain ⟨m, hx⟩ := Nat.dvd_of_mod_eq_zero whole
  exact bpDecode_iff_bpDecodes.mpr (bpEncode_bpDecodes hx counted room)

end Sys2Proof.Proofs
end

section
/-!
PROOFS. The control code of a delta (44_streamvbyte.md R223): the bytes it stands for hold the delta, and no fewer do.
-/

namespace Sys2Proof.Machine

theorem toNat_lt_of_svbCode (delta : Word) : delta.toNat < 2 ^ (8 * (svbCode delta + 1)) := by
  unfold svbCode
  split_ifs with one two three
  · exact one
  · exact two
  · exact three
  · exact delta.isLt

theorem le_toNat_of_lt_svbCode {delta : Word} {c : Nat} (h : c < svbCode delta) : 2 ^ (8 * (c + 1)) ≤ delta.toNat := by
  unfold svbCode at h
  split_ifs at h with one two three
  · omega
  · exact (Nat.pow_le_pow_right (by decide) (by omega)).trans (Nat.le_of_not_lt one)
  · exact (Nat.pow_le_pow_right (by decide) (by omega)).trans (Nat.le_of_not_lt two)
  · exact (Nat.pow_le_pow_right (by decide) (by omega)).trans (Nat.le_of_not_lt three)

/-- The code by the formula of R223: one less than the whole bytes that `bits32` bits fill, and 0 for the delta 0. -/
theorem svbCode_eq (delta : Word) : svbCode delta = max 0 ((bits32 delta + 7) / 8 - 1) := by
  have enough := bits32_le_iff.mpr (toNat_lt_of_svbCode delta)
  have least : ∀ c < svbCode delta, 8 * (c + 1) < bits32 delta := fun c hc =>
    Nat.lt_of_not_le fun narrow => Nat.not_lt_of_le (le_toNat_of_lt_svbCode hc) (bits32_le_iff.mp narrow)
  have last := least (svbCode delta - 1)
  omega

end Sys2Proof.Machine

namespace Sys2Proof.Proofs

open Sys2Proof.Machine

/-- Settles O45: the code's bytes hold the delta, the bytes of any smaller code do not, and `bits32` says the same of bits. -/
theorem svbCodeIsSmallest : Obligations.SvbCodeIsSmallest := by
  unfold Obligations.SvbCodeIsSmallest
  exact fun v => ⟨Nat.le_of_lt_succ (svbCode_lt v), toNat_lt_of_svbCode v, fun _ => le_toNat_of_lt_svbCode, svbCode_eq v⟩

end Sys2Proof.Proofs
end

section
/-!
PROOFS. The scalar loop of `SVB_Decode` in closed form (44_streamvbyte.md R228): the codes say where each record lies, the deltas are
the records zero-extended, and the values are their running sums.
-/

namespace Sys2Proof.Machine

open Sys2Proof.Claims

/-! ### Records of given codes -/

/-- The data bytes of the first `n` records, `c` the codes of the values (30_encoding.md R109). -/
def svbBytes (c : Nat → Nat) (n : Nat) : Nat := ((List.range n).map fun i => c i + 1).sum

@[simp] theorem svbBytes_zero (c : Nat → Nat) : svbBytes c 0 = 0 := rfl

theorem svbBytes_succ (c : Nat → Nat) (n : Nat) : svbBytes c (n + 1) = svbBytes c n + (c n + 1) := by
  simp [svbBytes, List.range_succ]

theorem svbBytes_succ_first (c : Nat → Nat) (n : Nat) : svbBytes c (n + 1) = c 0 + 1 + svbBytes (fun i => c (i + 1)) n := by
  simp [svbBytes, List.range_succ_eq_map, Function.comp_def]

theorem svbBytes_mono (c : Nat → Nat) {a b : Nat} (h : a ≤ b) : svbBytes c a ≤ svbBytes c b := by
  induction b, h using Nat.le_induction with
  | base => exact le_rfl
  | succ b _ ih => rw [svbBytes_succ]; omega

theorem svbBytes_congr {c c' : Nat → Nat} {n : Nat} (h : ∀ i < n, c i = c' i) : svbBytes c n = svbBytes c' n :=
  congrArg List.sum (List.map_congr_left fun i hi => by rw [h i (List.mem_range.mp hi)])

/-- The deltas in the first `n` records, `c` the codes of the values, zero-extended (44_streamvbyte.md R228). -/
def svbDeltas (c : Nat → Nat) (n : Nat) (data : List Byte) : List Word :=
  (List.range n).map fun i => BitVec.ofNat 32 (uat data (svbBytes c i) (c i + 1))

theorem uat_drop (s : List Byte) (n p k : Nat) : uat (s.drop n) p k = uat s (n + p) k := by
  rw [uat, List.drop_drop, uat]

theorem uat_take {s : List Byte} {p k n : Nat} (h : p + k ≤ n) : uat (s.take n) p k = uat s p k := by
  rw [uat, List.drop_take, List.take_take, Nat.min_eq_left (by omega), uat]

theorem getD_take (s : List Byte) {n i : Nat} (h : i < n) : (s.take n).getD i 0 = s.getD i 0 := by
  rw [← List.drop_zero (l := s), take_drop_getD s 0 h, Nat.zero_add, List.drop_zero]

theorem svbDeltas_succ (c : Nat → Nat) (n : Nat) (data : List Byte) :
    svbDeltas c (n + 1) data =
      BitVec.ofNat 32 (uat data 0 (c 0 + 1)) :: svbDeltas (fun i => c (i + 1)) n (data.drop (c 0 + 1)) := by
  simp [svbDeltas, List.range_succ_eq_map, Function.comp_def, svbBytes_succ_first, uat_drop]

/-! ### The scalar loop -/

/-- The scalar loop ends without a value exactly where the data is shorter than its records. -/
theorem svbValues_eq {keys : List Byte} {c : Nat → Nat} {count i : Nat} (codes : ∀ j < count, svbCodeAt keys (i + j) = c j)
    (prev : Word) (data : List Byte) :
    svbValues keys count i prev data =
      if svbBytes c count ≤ data.length then some (undelta1From prev (svbDeltas c count data), svbBytes c count) else none := by
  induction count generalizing c i prev data with
  | zero => rfl
  | succ count ih =>
    have first : svbCodeAt keys i = c 0 := codes 0 (Nat.succ_pos count)
    have others : ∀ j < count, svbCodeAt keys (i + 1 + j) = c (j + 1) := fun j hj => by
      rw [Nat.add_assoc, Nat.add_comm 1 j]
      exact codes (j + 1) (Nat.succ_lt_succ hj)
    rw [svbValues, ih others, first, svbBytes_succ_first, svbDeltas_succ, List.length_drop, undelta1From]
    by_cases short : data.length < c 0 + 1
    · rw [if_pos short, if_neg (by omega)]
    · rw [if_neg short]
      by_cases whole : c 0 + 1 + svbBytes (fun j => c (j + 1)) count ≤ data.length
      · rw [if_pos whole, if_pos (by omega)]
      · rw [if_neg whole, if_neg (by omega)]

/-- The loop looks at nothing of the key bytes but the codes of its values. -/
theorem svbValues_congr {keys keys' : List Byte} {count i i' : Nat}
    (same : ∀ j < count, svbCodeAt keys (i + j) = svbCodeAt keys' (i' + j)) (prev : Word) (data : List Byte) :
    svbValues keys count i prev data = svbValues keys' count i' prev data :=
  (svbValues_eq same prev data).trans (svbValues_eq (fun _ _ => rfl) prev data).symm

/-! ### The whole stream -/

/-- The code of value `i` as the decoder and as the stream format have it (30_encoding.md R108). -/
theorem svbCodeAt_keys (s : List Byte) {n i : Nat} (hi : i < n) :
    svbCodeAt ((s.drop 4).take (ceilDiv n 4)) i = codeAt s i := by
  have inKeys : i / 4 < ceilDiv n 4 := by
    rw [ceilDiv]
    omega
  rw [svbCodeAt, codeAt, take_drop_getD s 4 inKeys, Nat.shiftRight_eq_div_pow, Nat.pow_mul]

theorem recordAt_eq (s : List Byte) (n i : Nat) : recordAt s n i = 4 + (n + 3) / 4 + svbBytes (codeAt s) i := rfl

/-- The deltas of an `SVB` stream of `n` values (44_streamvbyte.md R228). -/
abbrev recordDeltas (s : List Byte) (n : Nat) : List Word :=
  (List.range n).map fun i => BitVec.ofNat 32 (uat s (recordAt s n i) (codeAt s i + 1))

theorem svbDeltas_drop_keys (s : List Byte) (n : Nat) :
    svbDeltas (codeAt s) n (s.drop (4 + ceilDiv n 4)) = recordDeltas s n := by
  simp only [svbDeltas, uat_drop]
  rfl

/-- `SVB_Decode` in closed form: the count, the room for the values, and the last record whole. -/
theorem svbDecode_eq {s : List Byte} {n : Nat} (count : (u32at s 0).toNat = n) (cap : Nat) :
    svbDecode s cap =
      if 4 ≤ s.length ∧ n ≤ cap ∧ recordAt s n n ≤ s.length then
        some (undelta1 (recordDeltas s n), recordAt s n n) else none := by
  have codes : ∀ j < n, svbCodeAt ((s.drop 4).take (ceilDiv n 4)) (0 + j) = codeAt s j := fun j hj => by
    rw [Nat.zero_add, svbCodeAt_keys s hj]
  have last : recordAt s n n = 4 + ceilDiv n 4 + svbBytes (codeAt s) n := rfl
  rw [svbDecode, count, svbValues_eq codes, List.length_drop, svbDeltas_drop_keys, last]
  by_cases accepts : 4 ≤ s.length ∧ n ≤ cap ∧ 4 + ceilDiv n 4 + svbBytes (codeAt s) n ≤ s.length
  · rw [if_pos accepts, if_neg (by omega), if_neg (by omega), if_neg (by omega), if_pos (by omega)]
    rfl
  · rw [if_neg accepts]
    split_ifs
    · rfl
    · rfl
    · rfl
    · omega
    · rfl

theorem svbDecode_iff_svbDecodes {s : List Byte} {cap : Nat} {ys : List Word} {used : Nat} :
    svbDecode s cap = some (ys, used) ↔ SvbDecodes s cap ys used := by
  rw [svbDecode_eq rfl]
  constructor
  · intro decodes
    split_ifs at decodes with accepts
    cases decodes
    exact ⟨accepts.1, _, rfl, accepts.2.1, rfl, accepts.2.2, rfl⟩
  · rintro ⟨long, n, rfl, room, rfl, whole, rfl⟩
    exact if_pos ⟨long, room, whole⟩

/-- Streams that begin with the same `used` bytes decode to the same values with `used` bytes used. -/
theorem svbDecodes_of_take_eq {s t : List Byte} {cap : Nat} {ys : List Word} {used : Nat} (decodes : SvbDecodes s cap ys used)
    (same : t.take used = s.take used) : SvbDecodes t cap ys used := by
  obtain ⟨long, n, count, room, ends, whole, values⟩ := decodes
  have header : 4 + (n + 3) / 4 ≤ used := ends ▸ Nat.le_add_right _ _
  have length : used ≤ t.length := by
    have := congrArg List.length same
    rw [List.length_take, List.length_take] at this
    omega
  have bytes : ∀ p k, p + k ≤ used → uat t p k = uat s p k := fun p k inside => by
    rw [← uat_take inside, same, uat_take inside]
  have codes : ∀ l < n, codeAt t l = codeAt s l := fun l hl => by
    have inKeys : 4 + l / 4 < used := by omega
    rw [codeAt, codeAt, ← getD_take t inKeys, same, getD_take s inKeys]
  have records : ∀ i ≤ n, recordAt t n i = recordAt s n i := fun i hi => by
    rw [recordAt_eq, recordAt_eq, svbBytes_congr fun l hl => codes l (hl.trans_le hi)]
  have deltas : recordDeltas t n = recordDeltas s n := List.map_congr_left fun i hi => by
    have hi : i < n := List.mem_range.mp hi
    have inside : recordAt s n i + (codeAt s i + 1) ≤ used :=
      calc recordAt s n i + (codeAt s i + 1)
        _ = recordAt s n (i + 1) := by rw [recordAt_eq, recordAt_eq, svbBytes_succ, Nat.add_assoc _ (svbBytes _ _)]
        _ ≤ used := ends ▸ Nat.add_le_add_left (svbBytes_mono _ hi) _
    rw [codes i hi, records i hi.le, bytes _ _ inside]
  have sameCount : u32at t 0 = u32at s 0 := congrArg _ (bytes 0 4 (by omega))
  exact ⟨by omega, n, sameCount ▸ count, room, ends.trans (records n le_rfl).symm, length,
    values.trans (congrArg undelta1 deltas.symm)⟩

end Sys2Proof.Machine
end

section
/-!
PROOFS. `SVB_Decode` on what `SVB_Encode` writes (44_streamvbyte.md R229): the decoder finds the encoder's codes and records in their
places, and the bytes kept of a delta are the whole delta. With it the statements about the scalar decoder (R228, R229, R231).
-/

namespace Sys2Proof.Machine

open Sys2Proof.Claims

theorem leNat_take (bs : List Byte) (k : Nat) : leNat (bs.take k) = leNat bs % 256 ^ k := by
  induction bs generalizing k with
  | nil => simp [leNat]
  | cons b bs ih =>
    have first : b.toNat < 256 := b.isLt
    cases k with
    | zero => simp [leNat, Nat.mod_one]
    | succ k =>
      have low : leNat (b :: bs) % 256 = b.toNat := by rw [leNat]; omega
      have behind : leNat (b :: bs) / 256 = leNat bs := by rw [leNat]; omega
      rw [List.take_succ_cons, leNat, ih, Nat.pow_succ', Nat.mod_mul, low, behind]

/-- The bytes kept of a delta are the whole delta (30_encoding.md R109). -/
theorem leNat_svbRecord (delta : Word) : leNat (svbRecord delta) = delta.toNat := by
  have holds := toNat_lt_of_svbCode delta
  rw [Nat.pow_mul] at holds
  rw [svbRecord, leN, leNat_take, leNat_le32, Nat.mod_eq_of_lt holds]

theorem codeAt_svbEncode {x : List Word} {i : Nat} (hi : i < x.length) :
    codeAt (svbEncode x) i = svbCode ((delta1 x).getD i 0) := by
  rw [codeAt, svbEncode_code (by omega), if_pos hi]

theorem take_eq_map_getD {α : Type} {xs : List α} {n : Nat} (h : n ≤ xs.length) (default : α) :
    xs.take n = (List.range n).map fun i => xs.getD i default := by
  refine List.ext_getElem (by simp [h]) fun i hi _ => ?_
  have inside : i < xs.length := (List.length_take_le' n xs).trans_lt' hi
  rw [List.getElem_take, List.getElem_map, List.getElem_range, List.getD_eq_getElem _ _ inside]

/-- The encoder's records lie where its codes say (30_encoding.md R107, R109). -/
theorem recordAt_svbEncode {x : List Word} {i : Nat} (hi : i ≤ x.length) :
    recordAt (svbEncode x) x.length i = 4 + (x.length + 3) / 4 + (((delta1 x).take i).map fun d => svbCode d + 1).sum := by
  have codes : svbBytes (codeAt (svbEncode x)) i = svbBytes (fun l => svbCode ((delta1 x).getD l 0)) i :=
    svbBytes_congr fun l hl => codeAt_svbEncode (hl.trans_le hi)
  rw [recordAt_eq, codes, take_eq_map_getD (by rwa [delta1_length]) 0, List.map_map]
  rfl

theorem recordDeltas_svbEncode (x : List Word) : recordDeltas (svbEncode x) x.length = delta1 x := by
  refine List.ext_getElem (by simp) fun i _ hi => ?_
  rw [delta1_length] at hi
  have record := (svbEncode_record_liesAt hi).take_drop_eq
  rw [svbRecord_length, ← codeAt_svbEncode hi, ← recordAt_svbEncode hi.le] at record
  rw [List.getElem_map, List.getElem_range, uat, record, leNat_svbRecord, BitVec.ofNat_toNat, BitVec.setWidth_eq,
    List.getD_eq_getElem _ _ (by rwa [delta1_length])]

theorem svbEncode_svbDecodes {x : List Word} {cap : Nat} (counted : x.length < 2 ^ 32) (room : x.length ≤ cap) :
    SvbDecodes (svbEncode x) cap x (svbEncode x).length := by
  have count : (u32at (svbEncode x) 0).toNat = x.length := by
    rw [svbEncode, List.append_assoc, u32at_le32_append, BitVec.toNat_ofNat, Nat.mod_eq_of_lt counted]
  have ends : (svbEncode x).length = recordAt (svbEncode x) x.length x.length := by
    rw [recordAt_svbEncode le_rfl, List.take_of_length_le (delta1_length x).le, svbEncode_length]
  have values : undelta1 (recordDeltas (svbEncode x) x.length) = x := by
    rw [recordDeltas_svbEncode]
    exact undelta1From_delta1From 0 x
  exact ⟨by rw [svbEncode_length]; omega, x.length, count, room, ends, le_rfl, values.symm⟩

end Sys2Proof.Machine

namespace Sys2Proof.Proofs

open Sys2Proof.Machine

/-- Settles O50: the decoder looks at nothing behind the last record, and a stream cut before its end would be accepted uncut with fewer
bytes used. -/
theorem svbDecodeIgnoresTrailingBytes : Obligations.SvbDecodeIgnoresTrailingBytes := by
  unfold Obligations.SvbDecodeIgnoresTrailingBytes
  refine fun s cap ys used => ⟨svbDecode_iff_svbDecodes, fun decodes => ?_⟩
  have accepted := svbDecode_iff_svbDecodes.mp decodes
  have ⟨_, _, _, _, _, whole, _⟩ := accepted
  have length : (s.take used).length = used := List.length_take_of_le whole
  refine ⟨whole, fun more => svbDecode_iff_svbDecodes.mpr (svbDecodes_of_take_eq accepted (List.take_left' length)), fun n cut => ?_⟩
  refine Option.eq_none_iff_forall_ne_some.mpr fun ⟨zs, used'⟩ decodesCut => ?_
  have acceptedCut := svbDecode_iff_svbDecodes.mp decodesCut
  have ⟨_, _, _, _, _, inside, _⟩ := acceptedCut
  rw [List.length_take] at inside
  have uncut : svbDecode s cap = some (zs, used') :=
    svbDecode_iff_svbDecodes.mpr (svbDecodes_of_take_eq acceptedCut (by rw [List.take_take, Nat.min_eq_left (by omega)]))
  rw [decodes] at uncut
  cases uncut
  omega

/-- Settles O55: the encoder's stream is one that the decoder accepts, and its records hold the deltas. -/
theorem svbRoundTrip : Obligations.SvbRoundTrip := by
  unfold Obligations.SvbRoundTrip
  exact fun x cap counted room => svbDecode_iff_svbDecodes.mpr (svbEncode_svbDecodes counted room)

end Sys2Proof.Proofs
end

section
/-!
PROOFS. The tables of the vectorised `SVB` decoder (44_streamvbyte.md R233, R234): the shuffle puts the bytes of a record into one lane
and fills up with zeros.
-/

namespace Sys2Proof.Machine

/-! ### A lane from its bytes -/

theorem append_byte_toNat {n : Nat} (x : BitVec n) (b : Byte) : (x ++ b).toNat = 256 * x.toNat + b.toNat := by
  rw [BitVec.toNat_append, ← Nat.shiftLeft_add_eq_or_of_lt b.isLt, Nat.shiftLeft_eq, Nat.mul_comm]

theorem leNat_eq_of_length_le_four {bs : List Byte} (h : bs.length ≤ 4) :
    leNat bs = (bs.getD 0 0).toNat + 256 * ((bs.getD 1 0).toNat + 256 * ((bs.getD 2 0).toNat + 256 * (bs.getD 3 0).toNat)) := by
  match bs, h with
  | [], _ | [_], _ | [_, _], _ | [_, _, _], _ | [_, _, _, _], _ => rfl

/-- Four bytes side by side are the word of the bytes that stand first among them, where the others are 0. -/
theorem append_getD_eq {bs : List Byte} (h : bs.length ≤ 4) :
    bs.getD 3 0 ++ bs.getD 2 0 ++ bs.getD 1 0 ++ bs.getD 0 0 = BitVec.ofNat 32 (leNat bs) := by
  refine BitVec.eq_of_toNat_eq ?_
  have bound : leNat bs < 2 ^ 32 := (leNat_lt bs).trans_le (Nat.pow_le_pow_right (by decide) h)
  rw [append_byte_toNat, append_byte_toNat, append_byte_toNat, BitVec.toNat_ofNat, Nat.mod_eq_of_lt bound,
    leNat_eq_of_length_le_four h]
  omega

/-- The lanes of a vector that has in lane `j` the bytes `bs j`, filled up with zeros. -/
theorem lanes_ofBytes_getD {bs : Nat → List Byte} (h : ∀ j, (bs j).length ≤ 4) :
    Vec.lanes (Vec.ofBytes fun i => (bs (i / 4)).getD (i % 4) 0) = (List.range 4).map fun j => BitVec.ofNat 32 (leNat (bs j)) := by
  simp only [← append_getD_eq (h _)]
  rfl

/-! ### The tables -/

theorem keyLen_le (k j : Nat) : keyLen k j ≤ 4 := Nat.mod_lt _ (by decide)

theorem keyOffset_le (k j : Nat) : keyOffset k j ≤ 4 * j := by
  induction j with
  | zero => exact le_rfl
  | succ j ih =>
    have := keyLen_le k j
    rw [keyOffset]
    omega

theorem lenTable_eq (k : Nat) : lenTable k = keyOffset k 4 := by
  simp only [lenTable, keyOffset, keyLen]
  omega

theorem take_getD_of_le (bs : List Byte) {n i : Nat} (h : n ≤ i) : (bs.take n).getD i 0 = 0 :=
  List.getD_eq_default _ _ ((List.length_take_le n bs).trans h)

/-- The shuffle gathers into lane `j` the bytes of record `j` (44_streamvbyte.md R233). -/
theorem shuffle_eq (data : List Byte) (k : Nat) :
    shuffle data k = Vec.ofBytes fun i => ((data.drop (keyOffset k (i / 4))).take (keyLen k (i / 4))).getD (i % 4) 0 := by
  refine vec_eq_of_byte_eq fun i hi => ?_
  rw [shuffle, gather, byte_ofBytes _ hi, byte_ofBytes _ hi, shufTable]
  by_cases used : i % 4 < keyLen k (i / 4)
  · have source : keyOffset k (i / 4) + i % 4 < 16 := by
      have := keyOffset_le k (i / 4)
      omega
    rw [if_pos used, take_drop_getD _ _ used]
    exact byte_ofBytes _ source
  · rw [if_neg used, take_getD_of_le _ (Nat.le_of_not_lt used)]

theorem lanes_shuffle (data : List Byte) (k : Nat) :
    Vec.lanes (shuffle data k) = (List.range 4).map fun j => BitVec.ofNat 32 (uat data (keyOffset k j) (keyLen k j)) := by
  rw [shuffle_eq]
  exact lanes_ofBytes_getD (bs := fun j => (data.drop (keyOffset k j)).take (keyLen k j))
    fun j => (List.length_take_le _ _).trans (keyLen_le k j)

end Sys2Proof.Machine

namespace Sys2Proof.Proofs

open Sys2Proof.Machine

/-- Settles O51: a lane of the shuffle holds the bytes of its record and then zeros, and the lengths add up to the last offset. -/
theorem shuffleTableGathersTheDeltas : Obligations.ShuffleTableGathersTheDeltas := by
  unfold Obligations.ShuffleTableGathersTheDeltas
  intro k data _ _
  refine ⟨?_, lanes_shuffle data k⟩
  simp [lenTable_eq, keyOffset]

end Sys2Proof.Proofs
end

section
/-!
PROOFS. The vectorised `SVB` decoder (44_streamvbyte.md R232 to R237): each of its steps is the scalar loop on the values it takes, and
runs of the scalar loop join up, as one hands the carry and the cursor on to the next.
-/

namespace Sys2Proof.Machine

/-! ### One run after another -/

/-- A run, and then another with the carry and the cursor that it leaves (44_streamvbyte.md R232). -/
def thenRun (first : Option (List Word × Nat)) (second : Word → List Byte → Option (List Word × Nat)) (prev : Word)
    (data : List Byte) : Option (List Word × Nat) :=
  match first with
  | none => none
  | some (ys, used) =>
    match second (ys.getLastD prev) (data.drop used) with
    | none => none
    | some (zs, more) => some (ys ++ zs, used + more)

theorem svbKeySteps_cons (k : Byte) (ks : List Byte) (prev : Word) (data : List Byte) :
    svbKeySteps (k :: ks) prev data = thenRun (svbKeyStep k prev data) (svbKeySteps ks) prev data := rfl

theorem svbGroups_succ (count tail : Nat) (keys : List Byte) (prev : Word) (data : List Byte) :
    svbGroups (count + 1) tail keys prev data =
      thenRun (svbGroup (keys.take 8) prev data) (svbGroups count tail (keys.drop 8)) prev data := rfl

theorem thenRun_some_nil (second : Word → List Byte → Option (List Word × Nat)) (prev : Word) (data : List Byte) :
    thenRun (some ([], 0)) second prev data = second prev data := by
  simp only [thenRun, List.getLastD_nil, List.drop_zero, List.nil_append, Nat.zero_add]
  cases second prev data <;> rfl

/-- The scalar loop may be cut in two anywhere. -/
theorem svbValues_add (keys : List Byte) (a b i : Nat) (prev : Word) (data : List Byte) :
    svbValues keys (a + b) i prev data =
      thenRun (svbValues keys a i prev data) (svbValues keys b (i + a)) prev data := by
  induction a generalizing i prev data with
  | zero => rw [Nat.zero_add, svbValues, thenRun_some_nil, Nat.add_zero]
  | succ a ih =>
    rw [Nat.succ_add_eq_add_succ, Nat.add_succ, svbValues, svbValues, ih]
    by_cases short : data.length < svbCodeAt keys i + 1
    · rw [if_pos short, if_pos short]
      rfl
    · rw [if_neg short, if_neg short, Nat.add_assoc i 1 a, Nat.add_comm 1 a]
      generalize prev + BitVec.ofNat 32 (uat data 0 (svbCodeAt keys i + 1)) = value
      cases svbValues keys a (i + 1) value (data.drop (svbCodeAt keys i + 1)) with
      | none => rfl
      | some run =>
        obtain ⟨ys, used⟩ := run
        simp only [thenRun, List.getLastD_cons, List.drop_drop]
        cases svbValues keys b (i + (a + 1)) (ys.getLastD value) (data.drop (svbCodeAt keys i + 1 + used)) with
        | none => rfl
        | some run => simp only [List.cons_append, Nat.add_assoc]

/-- The scalar loop on key bytes further on. -/
theorem svbValues_drop (keys : List Byte) (m count : Nat) :
    svbValues keys count (4 * m) = svbValues (keys.drop m) count 0 := by
  funext prev data
  refine svbValues_congr (fun j _ => ?_) prev data
  have key : (4 * m + j) / 4 = m + j / 4 := by omega
  have field : (4 * m + j) % 4 = (0 + j) % 4 := by omega
  rw [svbCodeAt, svbCodeAt, key, field]
  simp [List.getD_eq_getElem?_getD]

theorem svbValues_take {keys : List Byte} {m count : Nat} (h : count ≤ 4 * m) (prev : Word) (data : List Byte) :
    svbValues (keys.take m) count 0 prev data = svbValues keys count 0 prev data :=
  svbValues_congr (fun j hj => by rw [svbCodeAt, svbCodeAt, getD_take keys (by omega)]) prev data

/-! ### The general path -/

theorem lanes_psum1V (d carry : Vec) : Vec.lanes (psum1V d carry) = undelta1From carry.l3 (Vec.lanes d) := rfl

/-- Four values by the tables are four values by the scalar loop (44_streamvbyte.md R235). -/
theorem svbKeyStep_eq (k : Byte) (prev : Word) (data : List Byte) :
    svbKeyStep k prev data = svbValues [k] 4 0 prev data := by
  unfold svbKeyStep
  split_ifs with readable
  · have codes : ∀ j < 4, svbCodeAt [k] (0 + j) + 1 = keyLen k.toNat j
      | 0, _ | 1, _ | 2, _ | 3, _ => rfl
    have offsets : ∀ j ≤ 4, svbBytes (fun i => svbCodeAt [k] (0 + i)) j = keyOffset k.toNat j := fun j hj => by
      induction j with
      | zero => rfl
      | succ j ih => rw [svbBytes_succ, ih (by omega), codes j hj, keyOffset]
    have deltas : svbDeltas (fun i => svbCodeAt [k] (0 + i)) 4 data = Vec.lanes (shuffle data k.toNat) := by
      rw [lanes_shuffle]
      refine List.map_congr_left fun j hj => ?_
      have hj : j < 4 := List.mem_range.mp hj
      rw [offsets j hj.le, codes j hj]
    have enough : keyOffset k.toNat 4 ≤ data.length := (keyOffset_le _ 4).trans readable
    rw [svbValues_eq (fun _ _ => rfl), offsets 4 le_rfl, deltas, if_pos enough, lanes_psum1V, lenTable_eq]
    rfl
  · rfl

theorem svbKeySteps_eq (ks : List Byte) : svbKeySteps ks = svbValues ks (4 * ks.length) 0 := by
  induction ks with
  | nil => rfl
  | cons k ks ih =>
    funext prev data
    calc svbKeySteps (k :: ks) prev data
      _ = thenRun (svbValues [k] 4 0 prev data) (svbValues ks (4 * ks.length) 0) prev data := by
        rw [svbKeySteps_cons, svbKeyStep_eq, ih]
      _ = thenRun (svbValues (k :: ks) 4 0 prev data) (svbValues (k :: ks) (4 * ks.length) (0 + 4)) prev data := by
        rw [← svbValues_take (keys := k :: ks) (m := 1) le_rfl, svbValues_drop (k :: ks) 1]
        rfl
      _ = svbValues (k :: ks) (4 * (k :: ks).length) 0 prev data := by
        rw [← svbValues_add, List.length_cons, Nat.mul_succ, Nat.add_comm 4]

/-! ### The fast path -/

/-- Bytes, zero-extended. -/
abbrev zeroExtended (data : List Byte) : List Word := data.map (BitVec.setWidth 32)

theorem widen_cons (a b c d : Byte) (rest : List Byte) :
    widen (a :: b :: c :: d :: rest) = ⟨a.setWidth 32, b.setWidth 32, c.setWidth 32, d.setWidth 32⟩ := by
  simp [widen, Vec.ofList]

/-- A batch of eight one-byte deltas is two groups of four running sums by R155 (44_streamvbyte.md R236). -/
theorem svbFastBatches_eq {count : Nat} {data : List Byte} (readable : 8 * count ≤ data.length) (carry : Vec) :
    svbFastBatches count carry data = undelta1From carry.l3 (zeroExtended (data.take (8 * count))) := by
  induction count generalizing data carry with
  | zero => rfl
  | succ count ih =>
    match data, readable with
    | a :: b :: c :: d :: e :: f :: g :: h :: rest, readable =>
      have others : 8 * count ≤ rest.length := by
        simp only [List.length_cons] at readable
        omega
      rw [svbFastBatches]
      simp only [List.drop_succ_cons, List.drop_zero, widen_cons, ih others, Nat.mul_succ]
      rfl

@[simp] theorem svbBytes_one_byte (n : Nat) : svbBytes (fun _ => 0) n = n := by simp [svbBytes]

/-- A record of one byte is that byte. -/
theorem uat_one {data : List Byte} {p : Nat} (h : p < data.length) : uat data p 1 = data[p].toNat := by
  rw [uat, List.drop_eq_getElem_cons h]
  rfl

theorem svbDeltas_one_byte {n : Nat} {data : List Byte} (h : n ≤ data.length) :
    svbDeltas (fun _ => 0) n data = zeroExtended (data.take n) := by
  refine List.ext_getElem (by simp [svbDeltas, h]) fun i hi _ => ?_
  have inside : i < data.length := by
    simp only [svbDeltas, List.length_map, List.length_range] at hi
    omega
  simp [svbDeltas, uat_one inside]

theorem svbCodeAt_of_zero {keys : List Byte} (zero : ∀ k ∈ keys, k = 0) (i : Nat) : svbCodeAt keys i = 0 := by
  have key : keys.getD (i / 4) 0 = 0 := by
    by_cases h : i / 4 < keys.length
    · rw [List.getD_eq_getElem _ _ h]
      exact zero _ (List.getElem_mem h)
    · exact List.getD_eq_default _ _ (Nat.le_of_not_lt h)
  rw [svbCodeAt, key]
  simp

/-- The values of a group by either path (44_streamvbyte.md R235 to R237). -/
theorem svbGroup_eq {keys : List Byte} (full : keys.length = 8) (prev : Word) (data : List Byte) :
    svbGroup keys prev data = svbValues keys 32 0 prev data := by
  unfold svbGroup
  split_ifs with fast
  · rw [Bool.and_eq_true, List.all_eq_true, decide_eq_true_eq] at fast
    obtain ⟨zero, readable⟩ := fast
    rw [svbValues_eq fun j _ => svbCodeAt_of_zero (fun k hk => beq_iff_eq.mp (zero k hk)) _, svbDeltas_one_byte readable,
      svbBytes_one_byte, if_pos readable, svbFastBatches_eq readable]
    rfl
  · rw [svbKeySteps_eq, full]

/-! ### The whole stream -/

theorem svbGroups_eq {count : Nat} {keys : List Byte} (full : 8 * count ≤ keys.length) (tail : Nat) :
    svbGroups count tail keys = svbValues keys (32 * count + tail) 0 := by
  induction count generalizing keys with
  | zero =>
    rw [Nat.mul_zero, Nat.zero_add]
    rfl
  | succ count ih =>
    have first : (keys.take 8).length = 8 := List.length_take_of_le (by omega)
    have others : 8 * count ≤ (keys.drop 8).length := by rw [List.length_drop]; omega
    funext prev data
    calc svbGroups (count + 1) tail keys prev data
      _ = thenRun (svbValues keys 32 0 prev data) (svbValues (keys.drop 8) (32 * count + tail) 0) prev data := by
        rw [svbGroups_succ, svbGroup_eq first, svbValues_take (by decide), ih others]
      _ = svbValues keys (32 * (count + 1) + tail) 0 prev data := by
        rw [← svbValues_drop, show 32 * (count + 1) + tail = 32 + (32 * count + tail) by omega, svbValues_add]

theorem svbDecodeVectors_eq (s : List Byte) (cap : Nat) : svbDecodeVectors s cap = svbDecode s cap := by
  unfold svbDecodeVectors svbDecode
  split_ifs with short room keysCut
  · rfl
  · rfl
  · rfl
  · have full : 8 * ((u32at s 0).toNat / 32) ≤ ((s.drop 4).take (ceilDiv (u32at s 0).toNat 4)).length := by
      rw [List.length_take_of_le (by rw [List.length_drop]; omega), ceilDiv]
      omega
    have run := svbGroups_eq full ((u32at s 0).toNat % 32)
    rw [Nat.div_add_mod] at run
    exact run ▸ rfl

end Sys2Proof.Machine

namespace Sys2Proof.Proofs

open Sys2Proof.Machine

/-- Settles O52: the groups and the tail are one run of the scalar loop. -/
theorem vectorisedDecoderEqualsScalar : Obligations.VectorisedDecoderEqualsScalar := by
  unfold Obligations.VectorisedDecoderEqualsScalar
  exact svbDecodeVectors_eq

end Sys2Proof.Proofs
end

section
/-!
PROOFS. The round trip of a composite codec from those of its two parts (42_codec_contract.md R176, 45_composite.md R258, R259): the
length field cuts the stream into the two encodings, because the bulk encoding's length fits it.
-/

namespace Sys2Proof.Machine

/-! ### The encoder and decoder of each codec -/

theorem bp_encode : bp.encode = bpEncode := rfl

theorem bp_decode : bp.decode = bpDecode := rfl

theorem svb_encode : svb.encode = svbEncode := rfl

theorem svb_decode : svb.decode = svbDecode := rfl

theorem composite_encode (a z : Codec) : (composite a z).encode = compositeEncode a z := rfl

theorem composite_decode (a z : Codec) : (composite a z).decode = compositeDecode a z := rfl

/-! ### Head and tail of an input -/

/-- What the bulk codec of a composite encodes (45_composite.md R249). -/
abbrev Codec.headOf (a : Codec) (x : List Word) : List Word := x.take (headLength a x.length)

/-- What the remainder codec behind the bulk codec `a` encodes (45_composite.md R249). -/
abbrev Codec.tailOf (a : Codec) (x : List Word) : List Word := x.drop (headLength a x.length)

theorem headOf_length (a : Codec) (x : List Word) : (a.headOf x).length = headLength a x.length :=
  List.length_take_of_le (headLength_le a x.length)

theorem tailOf_length (a : Codec) (x : List Word) : (a.tailOf x).length = x.length - headLength a x.length :=
  List.length_drop

theorem headOf_length_mod (a : Codec) (x : List Word) : (a.headOf x).length % a.blockSize = 0 := by
  rw [headOf_length]
  exact Nat.mul_mod_left _ _

theorem compositeEncode_eq (a z : Codec) (x : List Word) :
    compositeEncode a z x =
      le32 (BitVec.ofNat 32 (a.encode (a.headOf x)).length) ++ (a.encode (a.headOf x) ++ z.encode (a.tailOf x)) :=
  List.append_assoc _ _ _

/-! ### An encoded stream -/

/-- The two slices of an encoded stream are the encodings of head and tail (45_composite.md R252, R254). -/
theorem compositeSlices_compositeEncode {a : Codec} (z : Codec) {x : List Word} (fits : (a.encode (a.headOf x)).length < 2 ^ 32) :
    compositeSlices (compositeEncode a z x) = some (a.encode (a.headOf x), z.encode (a.tailOf x)) := by
  have field : (u32at (compositeEncode a z x) 0).toNat = (a.encode (a.headOf x)).length := by
    rw [compositeEncode_eq, u32at_le32_append, BitVec.toNat_ofNat, Nat.mod_eq_of_lt fits]
  rw [compositeSlices_eq_some_iff, field, ← List.drop_drop, compositeEncode_eq, List.drop_left' (le32_length _)]
  exact ⟨by simp, List.take_left.symm, List.drop_left.symm⟩

/-- A composite codec gives back what it encoded where its parts give back head and tail, the second with the room that the first leaves
(45_composite.md R256, R258). -/
theorem compositeDecode_compositeEncode {a z : Codec} {x : List Word} {cap : Nat} (fits : (a.encode (a.headOf x)).length < 2 ^ 32)
    (head : a.decode (a.encode (a.headOf x)) cap = some (a.headOf x, (a.encode (a.headOf x)).length))
    (tail : z.decode (z.encode (a.tailOf x)) (cap - (a.headOf x).length) = some (a.tailOf x, (z.encode (a.tailOf x)).length)) :
    compositeDecode a z (compositeEncode a z x) cap = some (x, (compositeEncode a z x).length) := by
  have length : (compositeEncode a z x).length = 4 + (a.encode (a.headOf x)).length + (z.encode (a.tailOf x)).length := by
    rw [compositeEncode_eq, List.length_append, List.length_append, le32_length, Nat.add_assoc]
  exact compositeDecode_eq_some_iff.mpr
    ⟨_, _, _, _, _, compositeSlices_compositeEncode z fits, head, tail, (List.take_append_drop _ x).symm, length⟩

/-! ### The main law of a codec -/

/-- A codec gives back every input that it encodes, with the whole stream used (42_codec_contract.md R176). -/
def Codec.RoundTrips (x : Codec) : Prop :=
  ∀ xs cap, xs.length % x.blockSize = 0 → x.encRange xs.length = true → xs.length < 2 ^ 32 → xs.length ≤ cap →
    x.decode (x.encode xs) cap = some (xs, (x.encode xs).length)

theorem bp_roundTrips : bp.RoundTrips := by
  intro xs cap whole _
  rw [bp_encode, bp_decode]
  exact Proofs.bpRoundTrip xs cap whole

theorem svb_roundTrips : svb.RoundTrips := by
  intro xs cap _ _
  rw [svb_encode, svb_decode]
  exact Proofs.svbRoundTrip xs cap

/-- The composite's range (45_composite.md R255) bounds the bulk encoding by its length field; a remainder codec of block size 1 takes
every tail (R250). -/
theorem composite_roundTrips {a z : Codec} (bounded : a.Bounded) (ha : a.RoundTrips) (hz : z.RoundTrips)
    (freeA : ∀ n, a.encRange n = true) (freeZ : ∀ n, z.encRange n = true) (anyLength : z.blockSize = 1) :
    (composite a z).RoundTrips := by
  intro x cap _ range counted room
  have inside := headLength_le a x.length
  have headSize := headOf_length a x
  have tailSize := tailOf_length a x
  have fits : (a.encode (a.headOf x)).length < 2 ^ 32 :=
    calc (a.encode (a.headOf x)).length
      _ ≤ a.maxLen (headLength a x.length) := headSize ▸ bounded.1 (a.headOf x)
      _ < 2 ^ 32 := of_decide_eq_true range
  rw [composite_encode, composite_decode]
  exact compositeDecode_compositeEncode fits
    (ha _ _ (headOf_length_mod a x) (freeA _) (by omega) (by omega))
    (hz _ _ (anyLength ▸ Nat.mod_one _) (freeZ _) (by omega) (by omega))

theorem comp_roundTrips : comp.RoundTrips :=
  composite_roundTrips bp_bounded bp_roundTrips svb_roundTrips (fun _ => rfl) (fun _ => rfl) rfl

end Sys2Proof.Machine

namespace Sys2Proof.Proofs

open Sys2Proof.Machine

/-- Settles O56: head and tail go through the round trips of `BP` and `SVB`, and the count of what decodes is exact. -/
theorem compRoundTrip : Obligations.CompRoundTrip := by
  unfold Obligations.CompRoundTrip
  intro x cap range counted room
  have decodes := comp_roundTrips x cap (Nat.mod_one _) ((comp_encRange _).mpr range) counted room
  exact ⟨decodes, comp_decLenExact _ _ _ _ decodes⟩

end Sys2Proof.Proofs
end

section
/-!
PROOFS. Which command raises which cause (60_exceptions.md R285): what each shared operation can raise, read off its cases, and for
each cause one state on which every command with that cause in its row raises it.
-/

namespace Sys2Proof.Machine

open Sys2Proof.Claims

/-! ### `STATUS` tells the causes apart -/

/-- The causes in the order of their numbers (60_exceptions.md R270). -/
def Cause.all : List Cause :=
  [.inputLength, .negativeValue, .truncated, .illegalCommand, .operandRange, .outputCapacity, .aliasing, .accessFault]

theorem Cause.map_number_all : Cause.all.map Cause.number = [1, 2, 3, 4, 5, 6, 7, 8] := rfl

theorem Cause.exists_number {n : Nat} (h : n ∈ [1, 2, 3, 4, 5, 6, 7, 8]) : ∃ c : Cause, c.number = n := by
  rw [← Cause.map_number_all, List.mem_map] at h
  obtain ⟨c, _, number⟩ := h
  exact ⟨c, number⟩

theorem Cause.all_getElem? (c : Cause) : Cause.all[c.number - 1]? = some c := by
  cases c <;> rfl

theorem Cause.number_injective : Function.Injective Cause.number := fun c d same =>
  Option.some.inj (by rw [← Cause.all_getElem? c, same, Cause.all_getElem? d])

theorem statusCause_statusFault (c : Cause) : statusCause (statusFault c) = c.number := by
  cases c <;> rfl

@[simp] theorem statusFault_inj {c d : Cause} : statusFault c = statusFault d ↔ c = d := by
  refine ⟨fun same => Cause.number_injective ?_, congrArg statusFault⟩
  rw [← statusCause_statusFault c, same, statusCause_statusFault]

@[simp] theorem statusSuccess_ne_statusFault (c : Cause) : statusSuccess ≠ statusFault c := by
  cases c <;> decide

/-! ### When a shared operation raises a cause -/

/-- On `s`, `run` ends by raising `c`, as `STATUS` tells it (10_state.md R25). -/
abbrev Raises (run : State → State) (s : State) (c : Cause) : Prop := (run s).status = statusFault c

theorem runTransform_raises_iff (f : List Word → List Word) (s : State) (c : Cause) :
    Raises (runTransform f) s c ↔ transformFault s = some c := by
  obtain ⟨d, check, ends⟩ | ⟨check, ends⟩ := runTransform_cases f s
  · simp [Raises, ends, check]
  · simp [Raises, ends, check]

theorem runMaxLen_raises_iff (x : Codec) (s : State) (c : Cause) :
    Raises (runMaxLen x) s c ↔ c = .operandRange ∧ 2 ^ 64 ≤ x.maxLen s.srcLen.toNat := by
  obtain ⟨large, ends⟩ | ⟨small, ends⟩ := runMaxLen_cases x s
  · rw [Raises, ends, State.raise_status, statusFault_inj, eq_comm, and_iff_left large]
  · simp only [Raises, ends, State.succeed_status, statusSuccess_ne_statusFault, Nat.not_le_of_lt small, and_false]

theorem runDeclen_raises_iff (x : Codec) (s : State) (c : Cause) :
    Raises (runDeclen x) s c ↔ declenFault s = some c ∨
      c = .truncated ∧ declenFault s = none ∧ x.decLen (s.mem.readBytes s.src.toNat s.srcLen.toNat) = none := by
  obtain ⟨d, check, ends⟩ | ⟨check, header, ends⟩ | ⟨_, _, check, header, ends⟩ := runDeclen_cases x s
  · simp [Raises, ends, check]
  · simp [Raises, ends, check, header, eq_comm]
  · simp [Raises, ends, check, header]

theorem runEnc_raises_iff (x : Codec) (s : State) (c : Cause) : Raises (runEnc x) s c ↔ encFault x s = some c := by
  obtain ⟨d, check, ends⟩ | ⟨check, ends⟩ := runEnc_cases x s
  · simp [Raises, ends, check]
  · simp [Raises, ends, check]

theorem runDec_raises_iff (x : Codec) (s : State) (c : Cause) :
    Raises (runDec x) s c ↔
      decFault s = some c ∨ c = .truncated ∧ decFault s = none ∧ decOutput x s = none := by
  obtain ⟨d, check, ends⟩ | ⟨check, output, ends⟩ | ⟨_, _, check, output, ends⟩ := runDec_cases x s
  · simp [Raises, ends, check]
  · simp [Raises, ends, check, output, eq_comm]
  · simp [Raises, ends, check, output]

/-! ### The causes of the checks -/

theorem transformFault_mem {s : State} {c : Cause} (h : transformFault s = some c) : c ∈ [.operandRange, .accessFault] := by
  unfold transformFault at h
  split_ifs at h <;> cases h <;> decide

theorem declenFault_mem {s : State} {c : Cause} (h : declenFault s = some c) : c ∈ [.operandRange, .accessFault] := by
  unfold declenFault at h
  split_ifs at h <;> cases h <;> decide

theorem encFault_mem {x : Codec} {s : State} {c : Cause} (h : encFault x s = some c) :
    c ∈ [.inputLength, .operandRange, .outputCapacity, .aliasing, .accessFault] := by
  unfold encFault at h
  split_ifs at h <;> cases h <;> decide

/-- With a block size of 1 every length is whole. -/
theorem encFault_ne_inputLength {x : Codec} (anyLength : x.blockSize = 1) (s : State) : encFault x s ≠ some .inputLength := by
  unfold encFault
  rw [anyLength, Nat.mod_one, if_neg (not_not_intro rfl)]
  split_ifs <;> nofun

theorem decFault_mem {s : State} {c : Cause} (h : decFault s = some c) : c ∈ [.operandRange, .aliasing, .accessFault] := by
  unfold decFault at h
  split_ifs at h <;> cases h <;> decide

/-! ### A state for each cause -/

/-- A state on which every command that can raise the cause does. The two causes that no command raises have none, and the entry for
them is not used. -/
def raiser : Cause → State
  /- one element, no whole block of `BP` -/
  | .inputLength => { State.reset with srcLen := 1 }
  /- an empty stream -/
  | .truncated => State.reset
  /- the longest length, at the last address -/
  | .operandRange => { State.reset with src := 0xFFFFFFFFFFFFFFFF, srcLen := 0xFFFFFFFFFFFFFFFF }
  /- no room for the count that every stream begins with -/
  | .outputCapacity => State.reset
  /- both windows at address 0 -/
  | .aliasing => { State.reset with srcLen := 128, dstCap := 1000 }
  /- windows apart, and no byte at address 0 -/
  | .accessFault => { State.reset with srcLen := 128, dst := 0x1000, dstCap := 1000, holes := [⟨0, 1⟩] }
  | .negativeValue | .illegalCommand => State.reset

theorem transformFault_raiser : ∀ c ∈ [Cause.operandRange, .accessFault], transformFault (raiser c) = some c := by decide

theorem declenFault_raiser : ∀ c ∈ [Cause.operandRange, .accessFault], declenFault (raiser c) = some c := by decide

theorem decFault_raiser : ∀ c ∈ [Cause.operandRange, .aliasing, .accessFault], decFault (raiser c) = some c := by decide

theorem encFault_bp_raiser :
    ∀ c ∈ [Cause.inputLength, .operandRange, .outputCapacity, .aliasing, .accessFault], encFault bp (raiser c) = some c := by
  decide

theorem encFault_svb_raiser :
    ∀ c ∈ [Cause.operandRange, .outputCapacity, .aliasing, .accessFault], encFault svb (raiser c) = some c := by decide

theorem encFault_comp_raiser :
    ∀ c ∈ [Cause.operandRange, .outputCapacity, .aliasing, .accessFault], encFault comp (raiser c) = some c := by decide

/-! ### The rows of the table -/

/-- The causes that `run` raises, on one state or another, are those of the row. -/
def HasRow (run : State → State) (row : List Cause) : Prop := ∀ c, c ∈ row ↔ ∃ s, Raises run s c

theorem HasRow.intro {run : State → State} {row : List Cause} (reached : ∀ c ∈ row, Raises run (raiser c) c)
    (only : ∀ s c, Raises run s c → c ∈ row) : HasRow run row :=
  fun c => ⟨fun h => ⟨raiser c, reached c h⟩, fun ⟨s, h⟩ => only s c h⟩

theorem hasRow_nil_of_succeeds {run : State → State} (succeeds : ∀ s, (run s).status = statusSuccess) : HasRow run [] :=
  .intro (fun _ h => absurd h List.not_mem_nil) fun s c h => absurd ((succeeds s).symm.trans h) (statusSuccess_ne_statusFault c)

theorem runTransform_hasRow (f : List Word → List Word) : HasRow (runTransform f) [.operandRange, .accessFault] :=
  .intro (fun c h => (runTransform_raises_iff f _ c).mpr (transformFault_raiser c h))
    fun s c h => transformFault_mem ((runTransform_raises_iff f s c).mp h)

theorem runMaxLen_hasRow {x : Codec} (large : 2 ^ 64 ≤ x.maxLen (raiser .operandRange).srcLen.toNat) :
    HasRow (runMaxLen x) [.operandRange] := by
  refine .intro (fun c h => ?_) fun s c h => ?_
  · cases List.mem_singleton.mp h
    exact (runMaxLen_raises_iff x _ _).mpr ⟨rfl, large⟩
  · exact List.mem_singleton.mpr ((runMaxLen_raises_iff x s c).mp h).1

theorem runDeclen_hasRow {x : Codec} (empty : x.decLen [] = none) :
    HasRow (runDeclen x) [.truncated, .operandRange, .accessFault] := by
  refine .intro (fun c h => ?_) fun s c h => ?_
  · rw [runDeclen_raises_iff]
    obtain rfl | check := List.mem_cons.mp h
    · exact .inr ⟨rfl, by decide, empty⟩
    · exact .inl (declenFault_raiser c check)
  · obtain check | ⟨rfl, _⟩ := (runDeclen_raises_iff x s c).mp h
    · exact List.mem_cons_of_mem _ (declenFault_mem check)
    · exact List.mem_cons_self

theorem runDec_hasRow {x : Codec} (empty : x.decode [] 0 = none) :
    HasRow (runDec x) [.truncated, .operandRange, .aliasing, .accessFault] := by
  refine .intro (fun c h => ?_) fun s c h => ?_
  · rw [runDec_raises_iff]
    obtain rfl | check := List.mem_cons.mp h
    · exact .inr ⟨rfl, by decide, empty⟩
    · exact .inl (decFault_raiser c check)
  · obtain check | ⟨rfl, _⟩ := (runDec_raises_iff x s c).mp h
    · exact List.mem_cons_of_mem _ (decFault_mem check)
    · exact List.mem_cons_self

theorem runEnc_bp_hasRow :
    HasRow (runEnc bp) [.inputLength, .operandRange, .outputCapacity, .aliasing, .accessFault] :=
  .intro (fun c h => (runEnc_raises_iff bp _ c).mpr (encFault_bp_raiser c h))
    fun s c h => encFault_mem ((runEnc_raises_iff bp s c).mp h)

theorem runEnc_hasRow_of_anyLength {x : Codec} (anyLength : x.blockSize = 1)
    (reached : ∀ c ∈ [Cause.operandRange, .outputCapacity, .aliasing, .accessFault], encFault x (raiser c) = some c) :
    HasRow (runEnc x) [.operandRange, .outputCapacity, .aliasing, .accessFault] := by
  refine .intro (fun c h => (runEnc_raises_iff x _ c).mpr (reached c h)) fun s c h => ?_
  rw [runEnc_raises_iff] at h
  refine List.mem_of_ne_of_mem ?_ (encFault_mem h)
  rintro rfl
  exact encFault_ne_inputLength anyLength s h

/-- Every command raises the causes of its row and no others. -/
theorem exec_hasRow (i : Instr) :
    ∃ run row, (∀ s, exec i s = .next (run s)) ∧ causes i = row.map Cause.number ∧ HasRow run row := by
  cases i with
  | lshl k => exact ⟨_, [], fun _ => rfl, rfl, hasRow_nil_of_succeeds fun _ => rfl⟩
  | lshr k => exact ⟨_, [], fun _ => rfl, rfl, hasRow_nil_of_succeeds fun _ => rfl⟩
  | vdelta1 | vpsum1 | vdelta4 | vundelta4 | vmaxbits | bpBlocksize | svbBlocksize | compBlocksize =>
    exact ⟨_, [], fun _ => rfl, rfl, hasRow_nil_of_succeeds fun _ => rfl⟩
  | delta1 | undelta1 | delta4 | undelta4 | prefixsum => exact ⟨_, _, fun _ => rfl, rfl, runTransform_hasRow _⟩
  | bpMaxlen => exact ⟨_, _, fun _ => rfl, rfl, runMaxLen_hasRow (x := bp) (by decide)⟩
  | svbMaxlen => exact ⟨_, _, fun _ => rfl, rfl, runMaxLen_hasRow (x := svb) (by decide)⟩
  | compMaxlen => exact ⟨_, _, fun _ => rfl, rfl, runMaxLen_hasRow (x := comp) (by decide)⟩
  | bpDeclen => exact ⟨_, _, fun _ => rfl, rfl, runDeclen_hasRow (x := bp) rfl⟩
  | svbDeclen => exact ⟨_, _, fun _ => rfl, rfl, runDeclen_hasRow (x := svb) rfl⟩
  | compDeclen => exact ⟨_, _, fun _ => rfl, rfl, runDeclen_hasRow (x := comp) rfl⟩
  | bpEnc => exact ⟨_, _, fun _ => rfl, rfl, runEnc_bp_hasRow⟩
  | svbEnc => exact ⟨_, _, fun _ => rfl, rfl, runEnc_hasRow_of_anyLength rfl encFault_svb_raiser⟩
  | compEnc => exact ⟨_, _, fun _ => rfl, rfl, runEnc_hasRow_of_anyLength rfl encFault_comp_raiser⟩
  | bpDec => exact ⟨_, _, fun _ => rfl, rfl, runDec_hasRow (x := bp) rfl⟩
  | svbDec => exact ⟨_, _, fun _ => rfl, rfl, runDec_hasRow (x := svb) rfl⟩
  | compDec => exact ⟨_, _, fun _ => rfl, rfl, runDec_hasRow (x := comp) rfl⟩

end Sys2Proof.Machine

namespace Sys2Proof.Proofs

open Sys2Proof.Machine Sys2Proof.Claims

/-- Settles O14: every command raises the causes of its row, and different causes leave different words in `STATUS`. -/
theorem causesRaisedAreThoseOfTheTable : Obligations.CausesRaisedAreThoseOfTheTable := by
  unfold Obligations.CausesRaisedAreThoseOfTheTable
  intro i n hn
  obtain ⟨c, rfl⟩ := Cause.exists_number hn
  obtain ⟨run, row, runs, table, hasRow⟩ := exec_hasRow i
  calc c.number ∈ causes i
    _ ↔ c ∈ row := by rw [table, List.mem_map_of_injective Cause.number_injective]
    _ ↔ ∃ s, Raises run s c := hasRow c
    _ ↔ ∃ s t, exec i s = .next t ∧ t.status = statusFault c := by simp [Raises, runs]

end Sys2Proof.Proofs
end

section
/-!
PROOFS. Reset during a command (70_reset_and_hazards.md R300): the registers are cleared, and the command's writable window, cut off at
the top of the address space, is scribbled over.
-/

namespace Sys2Proof.Machine

/-! ### A window that becomes unspecified -/

/-- Clipping drops the addresses that do not exist, and no others. -/
theorem Window.clip_covers_iff (w : Window) (a : Nat) : w.clip.covers a = true ↔ w.covers a = true ∧ a < 2 ^ 64 := by
  simp only [Window.covers_iff, Window.clip, Config.addressSpace]
  omega

theorem State.scribble_read_inside {w : Window} {a : Nat} (h : w.covers a = true) (s : State) :
    (s.scribble w).mem.read a = Config.freeByte (s.draws + (a - w.base)) := by
  obtain ⟨above, below⟩ := (w.covers_iff a).mp h
  obtain ⟨j, rfl⟩ := Nat.exists_eq_add_of_le above
  have hj : j < w.size := by omega
  rw [State.scribble_mem, Memory.read_writeBytes_inside _ _ _ j (by rwa [freeBytes_length]), freeBytes_getD _ _ _ hj,
    Nat.add_sub_cancel_left]

theorem State.scribble_read_outside {w : Window} {a : Nat} (h : ¬w.covers a = true) (s : State) :
    (s.scribble w).mem.read a = s.mem.read a := by
  rw [Window.covers_iff] at h
  exact Memory.read_writeBytes_outside _ _ _ a (by rw [freeBytes_length]; omega)

/-! ### An abandoned command -/

theorem abandonCommand_of_window {v : DWord} {i : Instr} {s : State} {w : Window} (decodes : decode (low32 v) = .ok i)
    (window : writableWindow i s = some w) : abandonCommand v s = (s.scribble w.clip).clearRegisters := by
  simp [abandonCommand, decodes, window]

/-- What a reset during a command can do: an illegal word, and a command that writes no memory, have no window. -/
theorem abandonCommand_cases (v : DWord) (s : State) :
    abandonCommand v s = s.clearRegisters ∨
    ∃ i w, decode (low32 v) = .ok i ∧ writableWindow i s = some w ∧
      abandonCommand v s = (s.scribble w.clip).clearRegisters := by
  cases decodes : decode (low32 v) with
  | error e => exact .inl (by simp [abandonCommand, decodes])
  | ok i =>
    cases window : writableWindow i s with
    | none => exact .inl (by simp [abandonCommand, decodes, window])
    | some w => exact .inr ⟨i, w, rfl, window, abandonCommand_of_window decodes window⟩

theorem readSlot_abandonCommand (v : DWord) (s : State) (slot : Fin 32) : readSlot (abandonCommand v s) slot = 0 := by
  obtain cleared | ⟨i, w, _, _, scribbled⟩ := abandonCommand_cases v s
  · rw [cleared, readSlot_clearRegisters]
  · rw [scribbled, readSlot_clearRegisters]

/-- Besides clearing the registers, an abandoned command touches memory and the count of draws only. -/
theorem abandonCommand_frame (v : DWord) (s : State) :
    abandonCommand v s = { s.clearRegisters with mem := (abandonCommand v s).mem, draws := (abandonCommand v s).draws } := by
  obtain cleared | ⟨i, w, _, _, scribbled⟩ := abandonCommand_cases v s
  · rw [cleared]
  · rw [scribbled]
    rfl

theorem abandonCommand_read_outside {v : DWord} {s : State} {a : Nat}
    (outside : ∀ i w, decode (low32 v) = .ok i → writableWindow i s = some w → w.covers a = false) :
    (abandonCommand v s).mem.read a = s.mem.read a := by
  obtain cleared | ⟨i, w, decodes, window, scribbled⟩ := abandonCommand_cases v s
  · rw [cleared, State.clearRegisters_mem]
  · have notCovered : ¬w.clip.covers a = true := by
      rw [Window.clip_covers_iff, outside i w decodes window]
      simp
    rw [scribbled, State.clearRegisters_mem, State.scribble_read_outside notCovered]

theorem abandonCommand_read_inside {v : DWord} {i : Instr} {s : State} {w : Window} {a : Nat}
    (decodes : decode (low32 v) = .ok i) (window : writableWindow i s = some w) (inside : w.covers a = true)
    (below : a < 2 ^ 64) : (abandonCommand v s).mem.read a = Config.freeByte (s.draws + (a - w.base)) := by
  rw [abandonCommand_of_window decodes window, State.clearRegisters_mem]
  exact State.scribble_read_inside ((w.clip_covers_iff a).mpr ⟨inside, below⟩) s

/-- The window of a command depends on registers, not on what the host still sends. -/
theorem writableWindow_pending (i : Instr) (s : State) (rest : List Event) :
    writableWindow i { s with pending := rest } = writableWindow i s := by
  cases i <;> rfl

end Sys2Proof.Machine

namespace Sys2Proof.Proofs

open Sys2Proof.Machine

/-- Settles O12: the event is taken off the queue, which is not where the window comes from, and the command abandoned. -/
theorem resetDuringCommandLeavesItsWindowFree : Obligations.ResetDuringCommandLeavesItsWindowFree := by
  unfold Obligations.ResetDuringCommandLeavesItsWindowFree
  intro s v rest sent
  refine ⟨_, step_event sent, readSlot_abandonCommand v _, abandonCommand_frame v _, fun a outside => ?_,
    fun i w a decodes window inside below => ?_⟩
  · refine abandonCommand_read_outside (s := { s with pending := rest }) fun i w decodes window => ?_
    rw [writableWindow_pending] at window
    exact outside i w decodes window
  · rw [← writableWindow_pending i s rest] at window
    exact abandonCommand_read_inside decodes window inside below

end Sys2Proof.Proofs
end
